-- ==== Sys2Proof/Word.lean ====
section
/-! DEFINITION. The data types the spec counts in: bytes, 16-byte vectors, the 176-byte schedule, the port values, and
the command triple a host presents (00_scope.md R7, R8; 10_state.md R32; 30_encoding.md R81). -/

namespace Sys2Proof

/-- A byte: 8 bits, bit 7 the top one (R7). Also an element of GF(2^8) (R110). -/
abbrev Byte := BitVec 8

/-- A block, a State, a key or a round key: 16 bytes, index 0 first (R8). -/
abbrev Block := Vector Byte 16

/-- The schedule: 176 bytes `W[0]` to `W[175]` (R8, R23). -/
abbrev Schedule := Vector Byte 176

/-- The rolling word: 4 bytes, `T[0]` first (R24). -/
abbrev RollingWord := Vector Byte 4

/-- The value on a 128-bit port: `a`, `b` or `r` (R32). -/
abbrev PortWord := BitVec 128

/-- The value on the 1408-bit port `sched` (R32). -/
abbrev SchedWord := BitVec 1408

/-- A command as the host presents it: the triple `op`, `a`, `b` (R81). Any value of `op` may be presented, a reserved
one too. -/
structure Command where
  op : BitVec 4
  a : PortWord
  b : PortWord
  deriving DecidableEq, Repr

end Sys2Proof
end

