-- ==== Sys2Proof/Config.lean ====
section
/-! DEFINITION. What is fixed for the machine: the compile-time sizes of R5, and the free values, which stand for
everything the spec leaves unspecified (93_implementation_defined.md U3 to U6). -/

namespace Sys2Proof.Config

/-- ROUNDS of R5. -/
abbrev rounds : Nat := 10

/-- ROUND_KEYS of R5. -/
abbrev roundKeys : Nat := 11

/-- BLOCK_BYTES and KEY_BYTES of R5. -/
abbrev blockBytes : Nat := 16

/-- SCHED_BYTES of R5. -/
abbrev schedBytes : Nat := 176

/-- How many groups of four bytes the key schedule produces (R174: 40 groups, 160 bytes). -/
abbrev scheduleGroups : Nat := 40

/-- FREE VALUE (log entries 2, 3): the `n`-th unspecified value of `w` bits. It has no body, so nothing can be proved of
it: a claim that holds holds for every value. -/
opaque freeBits (w n : Nat) : BitVec w

/-- FREE VALUE (log entry 2): the `n`-th unspecified natural number, brought into a counter's range where it is used. -/
opaque freeNat : Nat → Nat

end Sys2Proof.Config
end

