-- ==== Sys2Proof/Machine/Operands.lean ====
section
/-! DEFINITION. Byte vectors and how they travel on the ports: the one operand form the commands have, 16 bytes taken
whole from a port, and the two result forms (20_memory.md R55 to R60; 30_encoding.md R86). -/

namespace Sys2Proof.Machine

/-- Byte `i` of a vector, `V[i]` (R8). No operation reads past the end (R66); there it answers zero. -/
def byteAt {n : Nat} (v : Vector Byte n) (i : Nat) : Byte := v.toList.getD i 0

/-- The vector whose byte `i` is `f i`: how a rule of the form `S'[i] = f(S)` is written, all reads before all writes
(R11, R62). -/
def tabulate (n : Nat) (f : Nat → Byte) : Vector Byte n := ⟨((List.range n).map f).toArray, by simp⟩

/-- Byte `i` of a 128-bit port value: bits `127-8i` down to `120-8i` (R56, R86). -/
def portByte (p : PortWord) (i : Nat) : Byte := p.extractLsb' (120 - 8 * i) 8

/-- Byte `j` of the 1408-bit port value: bits `1407-8j` down to `1400-8j` (R56). -/
def schedByte (p : SchedWord) (j : Nat) : Byte := p.extractLsb' (1400 - 8 * j) 8

/-- The number whose big-endian bytes are `f 0` to `f (n-1)`: `f 0` the most significant. -/
def packNat (f : Nat → Byte) : Nat → Nat
  | 0 => 0
  | n + 1 => packNat f n * 256 + (f n).toNat

/-- `bytes(p)`: the 16 bytes a port value carries (R11, R56). -/
def bytes (p : PortWord) : Block := tabulate 16 (portByte p)

/-- `pack(V)`: the port value that carries 16 bytes, byte 0 in the most significant bits (R11, R56). -/
def pack (v : Block) : PortWord := BitVec.ofNat 128 (packNat (byteAt v) 16)

/-- The 176 bytes the `sched` port carries (R56). -/
def schedBytes (p : SchedWord) : Schedule := tabulate 176 (schedByte p)

/-- The `sched` port's value for a schedule (R56, R59). -/
def packSched (w : Schedule) : SchedWord := BitVec.ofNat 1408 (packNat (byteAt w) 176)

/-- `RK[n]`, the bytes `W[16n]` to `W[16n+15]` (R11, R52). -/
def roundKey (w : Schedule) (n : Nat) : Block := tabulate 16 fun i => byteAt w (16 * n + i)

end Sys2Proof.Machine
end

