-- ==== Sys2Proof/Syntax.lean ====
section
/-! DEFINITION. The ten commands of the opcode map (30_encoding.md R80, R84), with the two operand ports every command
word carries (R81). -/

namespace Sys2Proof

/-- A command with an assigned opcode. Every command word carries both operands; which of them a command uses is its
format's (R83), and an operand the format ignores is kept here, so that R87 (it has no effect) is a claim and not built
in. -/
inductive Instr where
  /-- `op = 0x1`, format BK: `a` the plaintext block, `b` the key (R181). -/
  | enc (a b : PortWord)
  /-- `op = 0x2`, format K: `a` ignored, `b` the key (R170). -/
  | expandkey (a b : PortWord)
  /-- `op = 0x4`, format S: `a` the State, `b` ignored (R141). -/
  | subbytes (a b : PortWord)
  /-- `op = 0x5`, format S: `a` the State, `b` ignored (R143). -/
  | shiftrows (a b : PortWord)
  /-- `op = 0x6`, format S: `a` the State, `b` ignored (R146). -/
  | mixcolumns (a b : PortWord)
  /-- `op = 0x7`, format SK: `a` the State, `b` the round key (R149). -/
  | addroundkey (a b : PortWord)
  /-- `op = 0x9`, format BK: `a` the ciphertext block, `b` the key (R184). -/
  | dec (a b : PortWord)
  /-- `op = 0xC`, format S: `a` the State, `b` ignored (R161). -/
  | invsubbytes (a b : PortWord)
  /-- `op = 0xD`, format S: `a` the State, `b` ignored (R163). -/
  | invshiftrows (a b : PortWord)
  /-- `op = 0xE`, format S: `a` the State, `b` ignored (R165). -/
  | invmixcolumns (a b : PortWord)
  deriving DecidableEq, Repr

end Sys2Proof
end

