-- ==== Sys2Proof/WellFormed.lean ====
section
/-! DEFINITION. Which commands are well formed. The one check the spec makes is on `op` (60_exceptions.md R207): every
128-bit value is a valid operand (30_encoding.md R85, R86), and a wrong length cannot be written, because the operand's
type fixes it (R86, R201). -/

namespace Sys2Proof

/-- The ten assigned values of `op` (R84). -/
def assignedOps : List (BitVec 4) := [0x1, 0x2, 0x4, 0x5, 0x6, 0x7, 0x9, 0xC, 0xD, 0xE]

/-- The six reserved values of `op` (R88). -/
def reservedOps : List (BitVec 4) := [0x0, 0x3, 0x8, 0xA, 0xB, 0xF]

/-- A presented command is well formed when its opcode is assigned (R84, R88). -/
def Command.wellFormed (c : Command) : Bool := assignedOps.contains c.op

/-- An instruction has an assigned opcode and two operands of 128 bits by its type, so each one is well formed, every
operand value included (R85, R86). -/
def Instr.wellFormed : Instr → Bool
  | .enc _ _ => true
  | .expandkey _ _ => true
  | .subbytes _ _ => true
  | .shiftrows _ _ => true
  | .mixcolumns _ _ => true
  | .addroundkey _ _ => true
  | .dec _ _ => true
  | .invsubbytes _ _ => true
  | .invshiftrows _ _ => true
  | .invmixcolumns _ _ => true

end Sys2Proof
end

