-- ==== Sys2Proof/Decode.lean ====
section
/-! DEFINITION. The decoder, total on every command, and the encoder (30_encoding.md R81 to R88). Both are written from
the opcode map R84 and the command word of R81. -/

namespace Sys2Proof

/-- Why a command does not decode. -/
inductive DecodeError where
  /-- The value of `op` is one of the six reserved ones (R88). The machine answers it with ILLEGAL_OP (R203). -/
  | reservedOpcode (op : BitVec 4)
  deriving DecidableEq, Repr

/-- Which operands a command uses and what its response carries (R83). -/
inductive Format where
  /-- A block and a key in, a block out on `r`. -/
  | BK
  /-- A key in, a schedule out on `sched`. -/
  | K
  /-- A State in, a State out on `r`. -/
  | S
  /-- A State and a round key in, a State out on `r`. -/
  | SK
  deriving DecidableEq, Repr

/-! The opcode values of R84. -/

abbrev Op.enc : BitVec 4 := 0x1
abbrev Op.expandkey : BitVec 4 := 0x2
abbrev Op.subbytes : BitVec 4 := 0x4
abbrev Op.shiftrows : BitVec 4 := 0x5
abbrev Op.mixcolumns : BitVec 4 := 0x6
abbrev Op.addroundkey : BitVec 4 := 0x7
abbrev Op.dec : BitVec 4 := 0x9
abbrev Op.invsubbytes : BitVec 4 := 0xC
abbrev Op.invshiftrows : BitVec 4 := 0xD
abbrev Op.invmixcolumns : BitVec 4 := 0xE

/-- The sub-field `inv = op[3]` (R82). -/
def opInv (op : BitVec 4) : Bool := op.getLsbD 3

/-- The sub-field `fn = op[2:0]` (R82). -/
def opFn (op : BitVec 4) : BitVec 3 := op.extractLsb' 0 3

/-- The decoder: all sixteen values of `op`, the whole of `op` decoded, six of them reserved (R84, R85, R88). -/
def decode (c : Command) : Except DecodeError Instr :=
  match c.op with
  | 0x1 => .ok (.enc c.a c.b)
  | 0x2 => .ok (.expandkey c.a c.b)
  | 0x4 => .ok (.subbytes c.a c.b)
  | 0x5 => .ok (.shiftrows c.a c.b)
  | 0x6 => .ok (.mixcolumns c.a c.b)
  | 0x7 => .ok (.addroundkey c.a c.b)
  | 0x9 => .ok (.dec c.a c.b)
  | 0xC => .ok (.invsubbytes c.a c.b)
  | 0xD => .ok (.invshiftrows c.a c.b)
  | 0xE => .ok (.invmixcolumns c.a c.b)
  | op => .error (.reservedOpcode op)

/-- The command word `op || a || b`: `op` is bits 259..256, `a` bits 255..128, `b` bits 127..0 (R81). -/
def Command.word (c : Command) : BitVec 260 := c.op ++ (c.a ++ c.b : BitVec 256)

/-- The command a command word carries (R81). -/
def Command.ofWord (w : BitVec 260) : Command where
  op := w.extractLsb' 256 4
  a := w.extractLsb' 128 128
  b := w.extractLsb' 0 128

/-- The decoder on a command word (R81, R84). -/
def decodeWord (w : BitVec 260) : Except DecodeError Instr := decode (Command.ofWord w)

/-- The encoder: an instruction's command (R84). -/
def encode : Instr → Command
  | .enc a b => ⟨Op.enc, a, b⟩
  | .expandkey a b => ⟨Op.expandkey, a, b⟩
  | .subbytes a b => ⟨Op.subbytes, a, b⟩
  | .shiftrows a b => ⟨Op.shiftrows, a, b⟩
  | .mixcolumns a b => ⟨Op.mixcolumns, a, b⟩
  | .addroundkey a b => ⟨Op.addroundkey, a, b⟩
  | .dec a b => ⟨Op.dec, a, b⟩
  | .invsubbytes a b => ⟨Op.invsubbytes, a, b⟩
  | .invshiftrows a b => ⟨Op.invshiftrows, a, b⟩
  | .invmixcolumns a b => ⟨Op.invmixcolumns, a, b⟩

/-- The encoder to a command word (R81, R84). -/
def encodeWord (i : Instr) : BitVec 260 := (encode i).word

/-- The format of an instruction (R83). -/
def Instr.format : Instr → Format
  | .enc _ _ => .BK
  | .expandkey _ _ => .K
  | .subbytes _ _ => .S
  | .shiftrows _ _ => .S
  | .mixcolumns _ _ => .S
  | .addroundkey _ _ => .SK
  | .dec _ _ => .BK
  | .invsubbytes _ _ => .S
  | .invshiftrows _ _ => .S
  | .invmixcolumns _ _ => .S

/-- Does a format use the operand on port `a`? (R83) -/
def Format.usesA : Format → Bool
  | .BK => true
  | .K => false
  | .S => true
  | .SK => true

/-- Does a format use the operand on port `b`? (R83) -/
def Format.usesB : Format → Bool
  | .BK => true
  | .K => true
  | .S => false
  | .SK => true

/-- The command of a word numbered as spec/opcode_table.json numbers its rows: `op` is bits 3..0, and the two operand
ports count on from it, `a` in bits 131..4 and `b` in bits 259..132. Bits at `nbits` and above are 0 (log entry 9). -/
def tableCommand (nbits w : Nat) : Command where
  op := BitVec.ofNat 4 (w % 2 ^ nbits)
  a := BitVec.ofNat 128 (w % 2 ^ nbits / 2 ^ 4)
  b := BitVec.ofNat 128 (w % 2 ^ nbits / 2 ^ 132)

/-- What the decoder reads from an opcode-table word. -/
def decodeTableWord (nbits w : Nat) : Option Instr :=
  match decode (tableCommand nbits w) with
  | .ok i => some i
  | .error _ => none

end Sys2Proof
end

