-- ==== Sys2Proof/Machine/State.lean ====
section
/-! DEFINITION. Everything the spec gives the machine: the working registers S, K, W, T (10_state.md R20 to R25), the
captured operands (R26), the sequencer PHASE, RND, POS, RCI (R27 to R31), the response signals (R32 to R35), what the
host drives on the input ports (R32), and the model's own counter of free values. -/

namespace Sys2Proof.Machine

/-- The seven values of the sequencer register PHASE (R28). In a state, `PHASE = p` says that phase `p`'s work is done
(the rows of R183's table). -/
inductive Phase where
  | idle
  | load
  | xform
  | init
  | round
  | final
  | done
  deriving DecidableEq, Repr

/-- What the host drives on the input ports during one step: `rst`, `cmd_valid`, and `op`, `a`, `b` (R32). -/
structure HostInput where
  rst : Bool
  cmdValid : Bool
  cmd : Command
  deriving DecidableEq, Repr

/-- The host presents nothing: no reset, no command. -/
def HostInput.quiet : HostInput := ⟨false, false, ⟨0, 0, 0⟩⟩

/-- The state of the core and of its ports. -/
structure State where
  /-- The State register, 16 bytes (R21). -/
  S : Block
  /-- The Key register, 16 bytes (R22). -/
  K : Block
  /-- The round-key schedule register, 176 bytes (R23). -/
  W : Schedule
  /-- The rolling word, 4 bytes (R24). -/
  T : RollingWord
  /-- The sequencer's phase (R28). `cmd_ready` and `rsp_valid` are read from it (R32). -/
  PHASE : Phase
  /-- The round register, an integer 0 to 10 (R29). -/
  RND : Nat
  /-- The schedule position, an integer 16 to 176 (R30). -/
  POS : Nat
  /-- The round-constant index, an integer 1 to 11 (R31). -/
  RCI : Nat
  /-- The copies of `op`, `a` and `b` made at acceptance (R26, R57). -/
  cap : Command
  /-- The output port `err` (R34). -/
  err : Bool
  /-- The output port `r`, 128 bits (R32, R35). -/
  r : PortWord
  /-- The output port `sched`, 1408 bits (R32, R35). -/
  sched : SchedWord
  /-- What the host drives at this step (the head) and at the steps after it; nothing once the list is empty. -/
  host : List HostInput
  /-- The model's own: how many free values have been drawn. -/
  draws : Nat
  deriving DecidableEq, Repr

/-- No step of this machine ends in a fault: the only error the spec has is the response ILLEGAL_OP (R202, R204), which
is a next state, and no behaviour is stuck (93_implementation_defined.md section 2). -/
inductive Fault : Type where
  deriving DecidableEq, Repr

/-- Why a step refuses to run. No behaviour of the core is refused (93_implementation_defined.md section 2). -/
inductive Refusal where
  /-- Raised by an arm of `exec` for an instruction that has no meaning yet; safe (the model stops). No arm raises it
  now. -/
  | notModelled (mnemonic : String)
  deriving DecidableEq, Repr

/-- The machine right after reset: in IDLE, no response (R40). Where R40 says "unspecified" the values are the log's:
S, K, W, T and the captured operands zero, the counters at the lowest value of their range, the output ports zero (log
entry 1). -/
def State.reset : State where
  S := Vector.replicate 16 0
  K := Vector.replicate 16 0
  W := Vector.replicate 176 0
  T := Vector.replicate 4 0
  PHASE := .idle
  RND := 0
  POS := 16
  RCI := 1
  cap := ⟨0, 0, 0⟩
  err := false
  r := 0
  sched := 0
  host := []
  draws := 0

/-! One named update for each register or group of registers that change together. -/

/-- `S <- v`, all 16 bytes at once (R11). -/
def State.withS (s : State) (v : Block) : State := { s with S := v }

/-- `K <- v` (R11). -/
def State.withK (s : State) (v : Block) : State := { s with K := v }

/-- `W <- v`. -/
def State.withW (s : State) (v : Schedule) : State := { s with W := v }

/-- `T <- v`. -/
def State.withT (s : State) (v : RollingWord) : State := { s with T := v }

/-- `PHASE <- p` (R11). -/
def State.withPHASE (s : State) (p : Phase) : State := { s with PHASE := p }

/-- `RND <- n` (R11). -/
def State.withRND (s : State) (n : Nat) : State := { s with RND := n }

/-- `POS <- n`. -/
def State.withPOS (s : State) (n : Nat) : State := { s with POS := n }

/-- `RCI <- n`. -/
def State.withRCI (s : State) (n : Nat) : State := { s with RCI := n }

/-- The captured operands become those of `c`. -/
def State.withCap (s : State) (c : Command) : State := { s with cap := c }

/-- `err <- e`. -/
def State.withErr (s : State) (e : Bool) : State := { s with err := e }

/-- `r <- v`. -/
def State.withR (s : State) (v : PortWord) : State := { s with r := v }

/-- `sched <- v`. -/
def State.withSched (s : State) (v : SchedWord) : State := { s with sched := v }

/-- The host will drive `h`. -/
def State.withHost (s : State) (h : List HostInput) : State := { s with host := h }

/-- `n` free values have been drawn. -/
def State.withDraws (s : State) (n : Nat) : State := { s with draws := n }

end Sys2Proof.Machine
end

