-- ==== Sys2Proof/Machine/Flags.lean ====
section
/-! DEFINITION. The status and handshake signals: the one flag `err`, and `cmd_ready` and `rsp_valid`, which are views of
PHASE (10_state.md R32 to R35). The core has no other flag (R34, R36). -/

namespace Sys2Proof.Machine

/-- `cmd_ready`: 1 exactly when PHASE = IDLE (R32). -/
def State.cmdReady (s : State) : Bool := s.PHASE == .idle

/-- `rsp_valid`: 1 exactly when PHASE = DONE (R32). -/
def State.rspValid (s : State) : Bool := s.PHASE == .done

/-- `err <- 0`: the operation was performed (R34). -/
def State.clearErr (s : State) : State := s.withErr false

/-- `err <- 1`: the command had a reserved opcode; set by nothing else (R34, R203). -/
def State.setErr (s : State) : State := s.withErr true

/-- A response in one of the three shapes of R35. -/
inductive Response where
  /-- A 16-byte block on `r`. -/
  | block (v : Block)
  /-- A 176-byte schedule on `sched`. -/
  | schedule (w : Schedule)
  /-- The error response, which carries no data (R203). -/
  | illegalOp
  deriving DecidableEq, Repr

/-- What the host takes from the ports at a response, and nothing at any other time: `err` first, then `sched` after
EXPANDKEY and `r` after every other command (R35, R245). -/
def State.response (s : State) : Option Response :=
  if s.rspValid then
    if s.err then some .illegalOp
    else if s.cap.op = Op.expandkey then some (.schedule (schedBytes s.sched))
    else some (.block (bytes s.r))
  else none

end Sys2Proof.Machine
end

