-- ==== Sys2Proof/Machine/Field.lean ====
section
/-! DEFINITION. Arithmetic in GF(2^8) with the reduction polynomial 0x11B: the functional units xtime, multiply and the
constant multipliers (40_field_arithmetic.md R110 to R118). The sum of two elements is `^^^` (R10, R110). -/

namespace Sys2Proof.Machine

/-- Multiplication by 2: the shift drops bit 7, and 0x1B is added when bit 7 of the input was set (R111). -/
def xtime (x : Byte) : Byte := if x.getLsbD 7 then (x <<< 1) ^^^ 0x1B else x <<< 1

/-- The loop of `multiply` with `n` iterations to go, from the accumulator `p` (R112). -/
def multiplyLoop : Nat → Byte → Byte → Byte → Byte
  | 0, p, _, _ => p
  | n + 1, p, x, y => multiplyLoop n (if y.getLsbD 0 then p ^^^ x else p) (xtime x) (y >>> 1)

/-- The product of two field elements: always exactly 8 iterations (R112). -/
def multiply (x y : Byte) : Byte := multiplyLoop 8 0 x y

/-- `mul2(x) = xtime(x)` (R113). -/
def mul2 (x : Byte) : Byte := xtime x

/-- `mul3(x) = xtime(x) ^ x` (R113). -/
def mul3 (x : Byte) : Byte := xtime x ^^^ x

/-- `mul9(x) = x8 ^ x` (R114). -/
def mul9 (x : Byte) : Byte := xtime (xtime (xtime x)) ^^^ x

/-- `mul11(x) = x8 ^ x2 ^ x` (R114). -/
def mul11 (x : Byte) : Byte := xtime (xtime (xtime x)) ^^^ xtime x ^^^ x

/-- `mul13(x) = x8 ^ x4 ^ x` (R114). -/
def mul13 (x : Byte) : Byte := xtime (xtime (xtime x)) ^^^ xtime (xtime x) ^^^ x

/-- `mul14(x) = x8 ^ x4 ^ x2` (R114). -/
def mul14 (x : Byte) : Byte := xtime (xtime (xtime x)) ^^^ xtime (xtime x) ^^^ xtime x

end Sys2Proof.Machine
end

