-- ==== Sys2Proof/Machine/Ops.lean ====
section
/-! DEFINITION. The operations every command is built from: acceptance, operand load, result emit, the error response
ILLEGAL_OP and the return to IDLE, reset, the draws of free values, and the reads and writes of the core's index spaces
(20_memory.md; 60_exceptions.md; 70_reset_and_hazards.md). -/

namespace Sys2Proof.Machine

/-! ## Free values -/

/-- The output ports take unspecified values: they mean nothing outside a response (R35, R40; log entry 3). -/
def State.freeOutputs (s : State) : State :=
  (((s.withErr ((Config.freeBits 1 s.draws).getLsbD 0)).withR (Config.freeBits 128 (s.draws + 1))).withSched
    (Config.freeBits 1408 (s.draws + 2))).withDraws (s.draws + 3)

/-- RND takes an unspecified value of its range 0 to 10: it means nothing outside INIT, ROUND and FINAL (R29). -/
def State.freeRND (s : State) : State :=
  (s.withRND (Config.freeNat s.draws % 11)).withDraws (s.draws + 1)

/-- The working registers and the captured operands take unspecified values (R39, R40; log entry 2). -/
def State.freeWorking (s : State) : State :=
  (((((s.withS (bytes (Config.freeBits 128 s.draws))).withK (bytes (Config.freeBits 128 (s.draws + 1)))).withW
    (schedBytes (Config.freeBits 1408 (s.draws + 2)))).withT
    (tabulate 4 fun k => Config.freeBits 8 (s.draws + 3 + k))).withCap
    ⟨Config.freeBits 4 (s.draws + 7), Config.freeBits 128 (s.draws + 8), Config.freeBits 128 (s.draws + 9)⟩).withDraws
    (s.draws + 10)

/-- RND, POS and RCI take unspecified values of their ranges 0..10, 16..176 and 1..11 (R29 to R31, R39; log entry 2). -/
def State.freeCounters (s : State) : State :=
  (((s.freeRND.withPOS (16 + Config.freeNat (s.draws + 1) % 161)).withRCI (1 + Config.freeNat (s.draws + 2) % 11))).withDraws
    (s.draws + 3)

/-- The core in IDLE: everything but PHASE is unspecified (R39, R40). -/
def State.toIdle (s : State) : State := (s.freeWorking.freeCounters.freeOutputs).withPHASE .idle

/-! ## The events of the command port -/

/-- What the host drives at this step: the head of `host`, and nothing once the list is empty (log entry 5). -/
def State.ports (s : State) : HostInput := s.host.headD HostInput.quiet

/-- This step's host input has been used; the host goes on to the next. -/
def State.takePorts (s : State) : State := s.withHost s.host.tail

/-- Acceptance of a command: `op`, `a` and `b` are copied (R33, R57). The output ports hold no meaning until the
response (R35). -/
def State.accept (c : Command) (s : State) : State := (s.withCap c).freeOutputs

/-- ILLEGAL_OP, the one exception (R203, R208): the command is accepted, no working register is written, nothing is
performed, PHASE goes to DONE with `err = 1`, and `r` and `sched` stay unspecified. -/
def State.raiseIllegalOp (c : Command) (s : State) : State := (State.accept c s).setErr.withPHASE .done

/-- The return after any response, an error response too: the core is back in IDLE and nothing is remembered (R33, R39,
R209). -/
def State.leaveDone (s : State) : State := s.toIdle

/-- IDLE with no command presented: the core waits (R40, R215). -/
def State.waitIdle (s : State) : State := s.toIdle

/-- Reset, whatever the core was doing: PHASE = IDLE, so `cmd_ready = 1` and `rsp_valid = 0`; an operation in progress is
abandoned with no response (R40, R230). -/
def State.applyReset (s : State) : State := s.toIdle

/-! ## Operand load and result emit -/

/-- `S <- bytes(a)`, from the captured operand (R58). -/
def State.loadS (s : State) : State := s.withS (bytes s.cap.a)

/-- `K <- bytes(b)`, from the captured operand (R58). -/
def State.loadK (s : State) : State := s.withK (bytes s.cap.b)

/-- `S <- f(S)`: a transform replaces S (R140). -/
def State.applyS (f : Block → Block) (s : State) : State := s.withS (f s.S)

/-- PHASE DONE with `r <- pack(S)`, `err <- 0` (R59). -/
def State.emitBlock (s : State) : State := ((s.withR (pack s.S)).clearErr).withPHASE .done

/-- PHASE DONE with `sched <- W[0..175]`, `err <- 0` (R59, R170). -/
def State.emitSchedule (s : State) : State := ((s.withSched (packSched s.W)).clearErr).withPHASE .done

/-! ## The index spaces -/

/-- The addressed index spaces of R50. -/
inductive Space where
  | state
  | sched
  | sbox
  | invSbox
  | rcon
  deriving DecidableEq, Repr

/-- How many cells a space has (R50). -/
def Space.cells : Space → Nat
  | .state => 16
  | .sched => 176
  | .sbox => 256
  | .invSbox => 256
  | .rcon => 11

/-- `W[j]`. -/
def State.readSched (s : State) (j : Nat) : Byte := byteAt s.W j

/-- `W[j] <- v` (R11). -/
def State.writeSched (s : State) (j : Nat) (v : Byte) : State := s.withW (s.W.setIfInBounds j v)

/-- `MemRead(SPACE, addr, 1)` (R11). There is no cell outside a space's range (R66). -/
def State.memRead (s : State) (sp : Space) (addr : Nat) : Option Byte :=
  if addr < sp.cells then
    match sp with
    | .state => some (byteAt s.S addr)
    | .sched => some (s.readSched addr)
    | .sbox => some (sbox (BitVec.ofNat 8 addr))
    | .invSbox => some (invSbox (BitVec.ofNat 8 addr))
    | .rcon => some (rcon addr)
  else none

/-- `MemWrite(SPACE, addr, 1, v)`: the spaces STATE and SCHED only; the ROM spaces have no write (R11, R66). -/
def State.memWrite (s : State) (sp : Space) (addr : Nat) (v : Byte) : Option State :=
  if addr < sp.cells then
    match sp with
    | .state => some (s.withS (s.S.setIfInBounds addr v))
    | .sched => some (s.writeSched addr v)
    | .sbox => none
    | .invSbox => none
    | .rcon => none
  else none

end Sys2Proof.Machine
end

