-- ==== Sys2Proof/Machine/KeySchedule.lean ====
section
/-! DEFINITION. The key schedule, run on the machine's own registers W, T, POS and RCI with the key read from K
(44_key_schedule.md R170 to R174), and the meaning of EXPANDKEY. W starts from whatever it held; that every byte is
written before it is read (R242) is a claim and not built in. -/

namespace Sys2Proof.Machine

/-- The registers the key schedule writes (R23, R24, R30, R31); EXPANDKEY writes no other while it expands (R170). -/
structure KeyRegs where
  W : Schedule
  T : RollingWord
  POS : Nat
  RCI : Nat
  deriving DecidableEq, Repr

/-- `W[j] <- K[j]` for `j` in `0..n-1`. -/
def copyKey (key : Block) : Nat → Schedule → Schedule
  | 0, w => w
  | n + 1, w => (copyKey key n w).setIfInBounds n (byteAt key n)

/-- The start: `W[0..15] <- K`, `POS <- 16`, `RCI <- 1` (R171). -/
def KeyRegs.start (key : Block) (g : KeyRegs) : KeyRegs := { g with W := copyKey key 16 g.W, POS := 16, RCI := 1 }

/-- `T[k] <- W[POS - 4 + k]` (R60, R172). -/
def KeyRegs.rollingWord (g : KeyRegs) : RollingWord := tabulate 4 fun k => byteAt g.W (g.POS - 4 + k)

/-- `[T[1], T[2], T[3], T[0]]` (R60, R172). -/
def rotateWord (t : RollingWord) : RollingWord := tabulate 4 fun k => byteAt t ((k + 1) % 4)

/-- The forward S-box on each byte (R172). -/
def substituteWord (t : RollingWord) : RollingWord := tabulate 4 fun k => sbox (byteAt t k)

/-- The round constant into the first byte only (R172). -/
def addConstant (c : Byte) (t : RollingWord) : RollingWord :=
  tabulate 4 fun k => if k = 0 then byteAt t 0 ^^^ c else byteAt t k

/-- T for the next group: the rolling word, and at a round-key boundary that word rotated, substituted and given the
constant `RCON[RCI]`, in that order (R172). -/
def KeyRegs.nextT (g : KeyRegs) : RollingWord :=
  if g.POS % 16 = 0 then addConstant (rcon g.RCI) (substituteWord (rotateWord g.rollingWord)) else g.rollingWord

/-- RCI for the next group: `RCI <- RCI + 1` at a round-key boundary (R31, R172). -/
def KeyRegs.nextRCI (g : KeyRegs) : Nat := if g.POS % 16 = 0 then g.RCI + 1 else g.RCI

/-- `W[pos + k] <- W[pos + k - 16] ^ T[k]` for `k` in `0..n-1`, in that order (R173). -/
def writeGroup (t : RollingWord) (pos : Nat) : Nat → Schedule → Schedule
  | 0, w => w
  | n + 1, w =>
    let w' := writeGroup t pos n w
    w'.setIfInBounds (pos + n) (byteAt w' (pos + n - 16) ^^^ byteAt t n)

/-- One group of four bytes: the rolling word is loaded, transformed if POS is a multiple of 16, and the four bytes are
written; then `POS <- POS + 4` (R172, R173). -/
def KeyRegs.group (g : KeyRegs) : KeyRegs where
  W := writeGroup g.nextT g.POS 4 g.W
  T := g.nextT
  POS := g.POS + 4
  RCI := g.nextRCI

/-- `n` groups. -/
def KeyRegs.groups : Nat → KeyRegs → KeyRegs
  | 0, g => g
  | n + 1, g => (KeyRegs.groups n g).group

/-- The registers after the start and 40 groups, when POS = 176 (R174, R187). -/
def KeyRegs.expand (key : Block) (g : KeyRegs) : KeyRegs :=
  KeyRegs.groups Config.scheduleGroups (KeyRegs.start key g)

/-- The schedule registers of a state. -/
def State.keyRegs (s : State) : KeyRegs := ⟨s.W, s.T, s.POS, s.RCI⟩

/-- The schedule registers become those of `g`. -/
def State.withKeyRegs (s : State) (g : KeyRegs) : State := (((s.withW g.W).withT g.T).withPOS g.POS).withRCI g.RCI

/-- `W <- ExpandKey(K)` (R174). -/
def State.expandKey (s : State) : State := s.withKeyRegs (KeyRegs.expand s.K s.keyRegs)

/-- Acceptance and phase LOAD of EXPANDKEY: `K <- bytes(b)`, `W <- ExpandKey(K)`; S is not touched (R25, R170). -/
def State.loadExpand (c : Command) (s : State) : State := (State.accept c s).loadK.expandKey.withPHASE .load

/-- EXPANDKEY: `sched` = the schedule of the key on `b`; `a` ignored (R170). -/
def execExpandkey (a b : PortWord) (s : State) : Host.Outcome State Fault Refusal :=
  .next (State.loadExpand ⟨Op.expandkey, a, b⟩ s).emitSchedule

end Sys2Proof.Machine
end

