-- ==== Sys2Proof/Machine/Transforms.lean ====
section
/-! DEFINITION. The seven round transforms as functions on 16-byte vectors: every byte of the result is computed from the
vector as it was before the transform (20_memory.md R62; 42_round_transforms_forward.md; 43_round_transforms_inverse.md).
Row `r`, column `c` is index `r + 4c` (R9). -/

namespace Sys2Proof.Machine

/-- SubBytes (R141). -/
def subBytes (s : Block) : Block := tabulate 16 fun i => sbox (byteAt s i)

/-- ShiftRows: the byte at row `r`, column `c` comes from column `(c + r) mod 4` (R143). -/
def shiftRows (s : Block) : Block := tabulate 16 fun i => byteAt s (i % 4 + 4 * ((i / 4 + i % 4) % 4))

/-- Row `r` of the MixColumns matrix applied to a column (R146). -/
def mixRow (r : Nat) (a0 a1 a2 a3 : Byte) : Byte :=
  match r with
  | 0 => mul2 a0 ^^^ mul3 a1 ^^^ a2 ^^^ a3
  | 1 => a0 ^^^ mul2 a1 ^^^ mul3 a2 ^^^ a3
  | 2 => a0 ^^^ a1 ^^^ mul2 a2 ^^^ mul3 a3
  | _ => mul3 a0 ^^^ a1 ^^^ a2 ^^^ mul2 a3

/-- Row `r` of the InvMixColumns matrix applied to a column (R165). -/
def invMixRow (r : Nat) (a0 a1 a2 a3 : Byte) : Byte :=
  match r with
  | 0 => mul14 a0 ^^^ mul11 a1 ^^^ mul13 a2 ^^^ mul9 a3
  | 1 => mul9 a0 ^^^ mul14 a1 ^^^ mul11 a2 ^^^ mul13 a3
  | 2 => mul13 a0 ^^^ mul9 a1 ^^^ mul14 a2 ^^^ mul11 a3
  | _ => mul11 a0 ^^^ mul13 a1 ^^^ mul9 a2 ^^^ mul14 a3

/-- The result whose byte at row `r`, column `c` is `f r` of the four bytes of column `c` (R146, R147, R165). -/
def mapColumns (f : Nat → Byte → Byte → Byte → Byte → Byte) (s : Block) : Block :=
  tabulate 16 fun i =>
    f (i % 4) (byteAt s (4 * (i / 4))) (byteAt s (4 * (i / 4) + 1)) (byteAt s (4 * (i / 4) + 2))
      (byteAt s (4 * (i / 4) + 3))

/-- MixColumns (R146). -/
def mixColumns (s : Block) : Block := mapColumns mixRow s

/-- AddRoundKey (R149). -/
def addRoundKey (s rkey : Block) : Block := tabulate 16 fun i => byteAt s i ^^^ byteAt rkey i

/-- InvSubBytes (R161). -/
def invSubBytes (s : Block) : Block := tabulate 16 fun i => invSbox (byteAt s i)

/-- InvShiftRows: the byte at row `r`, column `c` comes from column `(c - r) mod 4`, here `(c + (4 - r)) mod 4`
(R163). -/
def invShiftRows (s : Block) : Block := tabulate 16 fun i => byteAt s (i % 4 + 4 * ((i / 4 + (4 - i % 4)) % 4))

/-- InvMixColumns (R165). -/
def invMixColumns (s : Block) : Block := mapColumns invMixRow s

end Sys2Proof.Machine
end

