-- ==== Sys2Proof/Machine/Cipher.lean ====
section
/-! DEFINITION. The two orchestrators, phase by phase as their pseudocode has them, and the meanings of ENC and DEC
(45_block_orchestration.md R180 to R187). -/

namespace Sys2Proof.Machine

/-- `S <- AddRoundKey(S, RK[n])`, the round key read from W (R149, R242). -/
def State.addRK (n : Nat) (s : State) : State := State.applyS (fun v => addRoundKey v (roundKey s.W n)) s

/-- Acceptance and phase LOAD of ENC and DEC: `S <- bytes(a)`, `K <- bytes(b)`, `W <- ExpandKey(K)` (R181, R184). -/
def State.loadCipher (c : Command) (s : State) : State := (State.accept c s).loadS.loadK.expandKey.withPHASE .load

/-- Phase INIT with round key `n`: 0 for ENC, 10 for DEC (R28, R29). -/
def State.initPhase (n : Nat) (s : State) : State := State.addRK n ((s.withPHASE .init).withRND n)

/-- ENC's phase ROUND, `RND = n` (R181). -/
def State.encRound (n : Nat) (s : State) : State :=
  State.addRK n (State.applyS mixColumns (State.applyS shiftRows (State.applyS subBytes ((s.withPHASE .round).withRND n))))

/-- ENC's phase FINAL, `RND = 10`: MixColumns is omitted (R181). -/
def State.encFinal (s : State) : State :=
  State.addRK Config.rounds
    (State.applyS shiftRows (State.applyS subBytes ((s.withPHASE .final).withRND Config.rounds)))

/-- DEC's phase ROUND, `RND = n` (R184). -/
def State.decRound (n : Nat) (s : State) : State :=
  State.applyS invMixColumns
    (State.addRK n (State.applyS invSubBytes (State.applyS invShiftRows ((s.withPHASE .round).withRND n))))

/-- DEC's phase FINAL, `RND = 0` (R184). -/
def State.decFinal (s : State) : State :=
  State.addRK 0 (State.applyS invSubBytes (State.applyS invShiftRows ((s.withPHASE .final).withRND 0)))

/-- ENC's rounds `RND` in `1..n`, in that order (R181). -/
def State.encRounds : Nat → State → State
  | 0, s => s
  | n + 1, s => State.encRound (n + 1) (State.encRounds n s)

/-- DEC's rounds `RND` in `n, n-1, ..., 1` (R184). -/
def State.decRounds : Nat → State → State
  | 0, s => s
  | n + 1, s => State.decRounds n (State.decRound (n + 1) s)

/-- Phase DONE of ENC and DEC: RND no longer means anything (R29), `r <- pack(S)`, `err <- 0` (R181, R184). -/
def State.emitCipher (s : State) : State := s.freeRND.emitBlock

/-- ENC: `r` = the ciphertext of the block on `a` under the key on `b` (R181). -/
def execEnc (a b : PortWord) (s : State) : Host.Outcome State Fault Refusal :=
  .next (State.encRounds 9 (State.initPhase 0 (State.loadCipher ⟨Op.enc, a, b⟩ s))).encFinal.emitCipher

/-- DEC: `r` = the plaintext of the block on `a` under the key on `b` (R184). -/
def execDec (a b : PortWord) (s : State) : Host.Outcome State Fault Refusal :=
  .next (State.decRounds 9 (State.initPhase Config.rounds (State.loadCipher ⟨Op.dec, a, b⟩ s))).decFinal.emitCipher

end Sys2Proof.Machine
end

