-- ==== Sys2Proof/Machine/Phases.lean ====
section
/-! DEFINITION. The skeleton the seven single-transform commands share: load, transform, emit
(42_round_transforms_forward.md R140). -/

namespace Sys2Proof.Machine

/-- Acceptance and phase LOAD of a single-transform command: `S <- bytes(a)`; K, W and T are not touched (R25, R140). -/
def State.loadTransform (c : Command) (s : State) : State := (State.accept c s).loadS.withPHASE .load

/-- Phase XFORM: the one transform is applied to S (R28, R140). -/
def State.xformPhase (f : Block → Block) (s : State) : State := (State.applyS f s).withPHASE .xform

/-- A whole single-transform command, from acceptance to its response (R140). -/
def State.transformCommand (c : Command) (f : Block → Block) (s : State) : State :=
  (State.xformPhase f (State.loadTransform c s)).emitBlock

end Sys2Proof.Machine
end

