-- ==== Sys2Proof/Machine/Forward.lean ====
section
/-! DEFINITION. The meanings of SUBBYTES, SHIFTROWS, MIXCOLUMNS and ADDROUNDKEY (42_round_transforms_forward.md). Each
runs from acceptance to the response; the passage from DONE to IDLE is the next step's first act (log entry 6). -/

namespace Sys2Proof.Machine

/-- SUBBYTES: `r` = SubBytes of the State on `a`; `b` ignored (R141). -/
def execSubbytes (a b : PortWord) (s : State) : Host.Outcome State Fault Refusal :=
  .next (State.transformCommand ⟨Op.subbytes, a, b⟩ subBytes s)

/-- SHIFTROWS: `r` = ShiftRows of the State on `a`; `b` ignored (R143, R144). -/
def execShiftrows (a b : PortWord) (s : State) : Host.Outcome State Fault Refusal :=
  .next (State.transformCommand ⟨Op.shiftrows, a, b⟩ shiftRows s)

/-- MIXCOLUMNS: `r` = MixColumns of the State on `a`; `b` ignored (R146, R147). -/
def execMixcolumns (a b : PortWord) (s : State) : Host.Outcome State Fault Refusal :=
  .next (State.transformCommand ⟨Op.mixcolumns, a, b⟩ mixColumns s)

/-- ADDROUNDKEY: `r` = the State on `a` XOR the round key on `b`, which is used straight from the captured operand and
goes through neither K nor W (R26, R149). -/
def execAddroundkey (a b : PortWord) (s : State) : Host.Outcome State Fault Refusal :=
  .next (State.transformCommand ⟨Op.addroundkey, a, b⟩ (fun v => addRoundKey v (bytes b)) s)

end Sys2Proof.Machine
end

