-- ==== Sys2Proof/Machine/Inverse.lean ====
section
/-! DEFINITION. The meanings of INVSUBBYTES, INVSHIFTROWS and INVMIXCOLUMNS (43_round_transforms_inverse.md). -/

namespace Sys2Proof.Machine

/-- INVSUBBYTES: `r` = InvSubBytes of the State on `a`; `b` ignored (R161). -/
def execInvsubbytes (a b : PortWord) (s : State) : Host.Outcome State Fault Refusal :=
  .next (State.transformCommand ⟨Op.invsubbytes, a, b⟩ invSubBytes s)

/-- INVSHIFTROWS: `r` = InvShiftRows of the State on `a`; `b` ignored (R163, R164). -/
def execInvshiftrows (a b : PortWord) (s : State) : Host.Outcome State Fault Refusal :=
  .next (State.transformCommand ⟨Op.invshiftrows, a, b⟩ invShiftRows s)

/-- INVMIXCOLUMNS: `r` = InvMixColumns of the State on `a`; `b` ignored (R165). -/
def execInvmixcolumns (a b : PortWord) (s : State) : Host.Outcome State Fault Refusal :=
  .next (State.transformCommand ⟨Op.invmixcolumns, a, b⟩ invMixColumns s)

end Sys2Proof.Machine
end

