-- ==== Sys2Proof/Machine/Dispatch.lean ====
section
/-! DEFINITION. From an instruction to its meaning: one arm per constructor of Instr. -/

namespace Sys2Proof.Machine

def exec (i : Instr) (s : State) : Host.Outcome State Fault Refusal :=
  match i with
  | .enc a b => Sys2Proof.Machine.execEnc a b s
  | .expandkey a b => Sys2Proof.Machine.execExpandkey a b s
  | .subbytes a b => Sys2Proof.Machine.execSubbytes a b s
  | .shiftrows a b => Sys2Proof.Machine.execShiftrows a b s
  | .mixcolumns a b => Sys2Proof.Machine.execMixcolumns a b s
  | .addroundkey a b => Sys2Proof.Machine.execAddroundkey a b s
  | .dec a b => Sys2Proof.Machine.execDec a b s
  | .invsubbytes a b => Sys2Proof.Machine.execInvsubbytes a b s
  | .invshiftrows a b => Sys2Proof.Machine.execInvshiftrows a b s
  | .invmixcolumns a b => Sys2Proof.Machine.execInvmixcolumns a b s

end Sys2Proof.Machine
end

