-- ==== Sys2Proof/Machine/Sequencer.lean ====
section
/-! DEFINITION. The sequencer one phase at a time: the transition table of 10_state.md R28 with the work of each phase.
The meanings run whole operations; this is what an operation that has begun, but not yet answered, still has to do
(R33, R206, R230). -/

namespace Sys2Proof.Machine

/-- The transform a single-transform command applies in XFORM (R84). Another opcode never reaches XFORM (R28). -/
def xformOf (c : Command) : Block → Block :=
  match c.op with
  | 0x4 => subBytes
  | 0x5 => shiftRows
  | 0x6 => mixColumns
  | 0x7 => fun v => addRoundKey v (bytes c.b)
  | 0xC => invSubBytes
  | 0xD => invShiftRows
  | 0xE => invMixColumns
  | _ => id

/-- Acceptance in IDLE: LOAD for an assigned opcode, DONE with the error for a reserved one (R28). -/
def State.begin (c : Command) (s : State) : State :=
  match decode c with
  | .ok i =>
    match i.format with
    | .BK => State.loadCipher c s
    | .K => State.loadExpand c s
    | .S => State.loadTransform c s
    | .SK => State.loadTransform c s
  | .error _ => State.raiseIllegalOp c s

/-- The next phase of the operation in progress, with its work; of ENC and DEC, `op[3]` says which it is (R28, R29,
R82). In IDLE only acceptance moves the sequencer. -/
def State.advance (s : State) : State :=
  match s.PHASE with
  | .idle => s
  | .load =>
    if s.cap.op = Op.enc then State.initPhase 0 s
    else if s.cap.op = Op.dec then State.initPhase Config.rounds s
    else if s.cap.op = Op.expandkey then s.emitSchedule
    else State.xformPhase (xformOf s.cap) s
  | .xform => s.emitBlock
  | .init => if opInv s.cap.op then State.decRound 9 s else State.encRound 1 s
  | .round =>
    if opInv s.cap.op then if 1 < s.RND then State.decRound (s.RND - 1) s else s.decFinal
    else if s.RND < 9 then State.encRound (s.RND + 1) s else s.encFinal
  | .final => s.emitCipher
  | .done => s.leaveDone

/-- `n` transitions, fewer if the response comes first. -/
def State.advanceToDone : Nat → State → State
  | 0, s => s
  | n + 1, s => if s.PHASE = .done then s else State.advanceToDone n s.advance

/-- The operation in progress runs on to its response: at most 12 transitions, and RND more when RND is out of its range
(R251). -/
def State.finish (s : State) : State := State.advanceToDone (12 + s.RND) s

end Sys2Proof.Machine
end

