-- ==== Sys2Proof/Machine/Step.lean ====
section
/-! DEFINITION. One step: one accepted command and its operands to one response (00_scope.md R6), or reset, or a wait in
IDLE. -/

namespace Sys2Proof.Machine

/-- What the core in IDLE does with the input `p`: it accepts the command presented, or waits (R33, R88, R203). -/
def State.serve (p : HostInput) (s : State) : Host.Outcome State Fault Refusal :=
  if p.cmdValid then
    match decode p.cmd with
    | .ok i => exec i s
    | .error _ => .next (State.raiseIllegalOp p.cmd s)
  else .next s.waitIdle

/-- One step. `rst` comes first, whatever the core is doing (R230). In IDLE the core serves its command port; in DONE it
first returns to IDLE (R33); in any other phase it finishes the operation in progress and accepts nothing (R244). -/
def step (s : State) : Host.Outcome State Fault Refusal :=
  if s.ports.rst then .next s.takePorts.applyReset
  else
    match s.PHASE with
    | .idle => State.serve s.ports s.takePorts
    | .done => State.serve s.ports s.takePorts.leaveDone
    | .load => .next s.takePorts.finish
    | .xform => .next s.takePorts.finish
    | .init => .next s.takePorts.finish
    | .round => .next s.takePorts.finish
    | .final => .next s.takePorts.finish

/-- `s` in IDLE with the command `c` on its ports: the next step accepts it. -/
def State.present (s : State) (c : Command) : State :=
  (s.withPHASE .idle).withHost (⟨false, true, c⟩ :: s.host.tail)

/-- `s` with an opcode-table word on the command port, in IDLE, so that the very next step accepts and runs it (log
entries 5, 9). -/
def State.withFetchWord (s : State) (nbits w : Nat) : State := s.present (tableCommand nbits w)

end Sys2Proof.Machine
end

