-- ==== Sys2Proof/Machine/Assembly.lean ====
section
/-! DEFINITION. The spec's assembly syntax for command sequences: mnemonics, operands, the encoding of a line, and the
names a host binds to results (30_encoding.md R95 to R98). The core knows nothing of it: a line becomes a command word,
and the names live in the host. -/

namespace Sys2Proof.Machine

/-- The mnemonics of R96 and the one pseudo-instruction of R97. -/
inductive Mnemonic where
  | ENC
  | DEC
  | EXPANDKEY
  | SUBBYTES
  | SHIFTROWS
  | MIXCOLUMNS
  | ADDROUNDKEY
  | INVSUBBYTES
  | INVSHIFTROWS
  | INVMIXCOLUMNS
  | INVADDROUNDKEY
  deriving DecidableEq, Repr

/-- The opcode of a mnemonic; INVADDROUNDKEY is written for the command ADDROUNDKEY (R84, R97). -/
def Mnemonic.op : Mnemonic → BitVec 4
  | .ENC => Op.enc
  | .DEC => Op.dec
  | .EXPANDKEY => Op.expandkey
  | .SUBBYTES => Op.subbytes
  | .SHIFTROWS => Op.shiftrows
  | .MIXCOLUMNS => Op.mixcolumns
  | .ADDROUNDKEY => Op.addroundkey
  | .INVSUBBYTES => Op.invsubbytes
  | .INVSHIFTROWS => Op.invshiftrows
  | .INVMIXCOLUMNS => Op.invmixcolumns
  | .INVADDROUNDKEY => Op.addroundkey

/-- Which operands a mnemonic's line gives, and which it writes as `-` (R96). -/
def Mnemonic.format : Mnemonic → Format
  | .ENC => .BK
  | .DEC => .BK
  | .EXPANDKEY => .K
  | .SUBBYTES => .S
  | .SHIFTROWS => .S
  | .MIXCOLUMNS => .S
  | .ADDROUNDKEY => .SK
  | .INVSUBBYTES => .S
  | .INVSHIFTROWS => .S
  | .INVMIXCOLUMNS => .S
  | .INVADDROUNDKEY => .SK

/-- How each mnemonic is written, in capitals (R95, R96, R97). -/
def mnemonicTexts : List (List Char × Mnemonic) :=
  [(['E', 'N', 'C'], .ENC),
   (['D', 'E', 'C'], .DEC),
   (['E', 'X', 'P', 'A', 'N', 'D', 'K', 'E', 'Y'], .EXPANDKEY),
   (['S', 'U', 'B', 'B', 'Y', 'T', 'E', 'S'], .SUBBYTES),
   (['S', 'H', 'I', 'F', 'T', 'R', 'O', 'W', 'S'], .SHIFTROWS),
   (['M', 'I', 'X', 'C', 'O', 'L', 'U', 'M', 'N', 'S'], .MIXCOLUMNS),
   (['A', 'D', 'D', 'R', 'O', 'U', 'N', 'D', 'K', 'E', 'Y'], .ADDROUNDKEY)] ++
  [(['I', 'N', 'V', 'S', 'U', 'B', 'B', 'Y', 'T', 'E', 'S'], .INVSUBBYTES),
   (['I', 'N', 'V', 'S', 'H', 'I', 'F', 'T', 'R', 'O', 'W', 'S'], .INVSHIFTROWS),
   (['I', 'N', 'V', 'M', 'I', 'X', 'C', 'O', 'L', 'U', 'M', 'N', 'S'], .INVMIXCOLUMNS),
   (['I', 'N', 'V', 'A', 'D', 'D', 'R', 'O', 'U', 'N', 'D', 'K', 'E', 'Y'], .INVADDROUNDKEY)]

/-- The mnemonic a word spells; not case-sensitive (R95). -/
def Mnemonic.ofText (w : List Char) : Option Mnemonic := mnemonicTexts.lookup (w.map Char.toUpper)

/-- An operand of a line (R95). -/
inductive AsmOperand where
  /-- 32 hexadecimal digits, byte 0 first. -/
  | literal (v : Block)
  /-- `-`, for an operand the command ignores. -/
  | ignored
  /-- A name bound earlier to a 16-byte result. -/
  | name (n : List Char)
  /-- `name[i]`: round key `i` of a schedule name. -/
  | key (n : List Char) (i : Nat)
  deriving DecidableEq, Repr

/-- One line: `name = MNEMONIC a, b`, the binding optional (R95). -/
structure AsmLine where
  target : Option (List Char)
  mnemonic : Mnemonic
  a : AsmOperand
  b : AsmOperand
  deriving DecidableEq, Repr

/-! ## Reading a line's text -/

/-- The value of a hexadecimal digit. -/
def hexValue (c : Char) : Option Nat :=
  if '0' ≤ c ∧ c ≤ '9' then some (c.toNat - '0'.toNat)
  else if 'a' ≤ c ∧ c ≤ 'f' then some (c.toNat - 'a'.toNat + 10)
  else if 'A' ≤ c ∧ c ≤ 'F' then some (c.toNat - 'A'.toNat + 10)
  else none

/-- A byte string of 32 hexadecimal digits, byte 0 first (R8, R95). -/
def readBytes (cs : List Char) : Option Block :=
  let ds := cs.filterMap hexValue
  if cs.length = 32 ∧ ds.length = 32 then
    some (tabulate 16 fun i => BitVec.ofNat 8 (16 * ds.getD (2 * i) 0 + ds.getD (2 * i + 1) 0))
  else none

/-- The text without the blanks around it. -/
def trimText (cs : List Char) : List Char :=
  ((cs.dropWhile Char.isWhitespace).reverse.dropWhile Char.isWhitespace).reverse

/-- What stands before the first `c`, and what stands after it if there is one. -/
def splitAtChar (c : Char) (cs : List Char) : List Char × Option (List Char) :=
  match cs.span (· ≠ c) with
  | (before, []) => (before, none)
  | (before, _ :: after) => (before, some after)

/-- A name: letters, digits, `_` and `'`, at least one of them (log entry 10). -/
def isName (cs : List Char) : Bool :=
  !cs.isEmpty && cs.all fun c => c.isAlphanum || c == '_' || c == '\''

/-- The number decimal digits spell. -/
def readNumber (cs : List Char) : Option Nat :=
  if cs.isEmpty || !cs.all Char.isDigit then none
  else some (cs.foldl (fun n c => 10 * n + (c.toNat - '0'.toNat)) 0)

/-- An operand: `-`, 32 hexadecimal digits, `name` or `name[i]` with `i` in 0..10 (R95). -/
def readOperand (cs : List Char) : Option AsmOperand :=
  if cs = ['-'] then some .ignored
  else
    match readBytes cs with
    | some v => some (.literal v)
    | none =>
      match splitAtChar '[' cs with
      | (n, none) => if isName n then some (.name n) else none
      | (n, some rest) =>
        match splitAtChar ']' rest with
        | (ds, some []) =>
          match readNumber ds with
          | some i => if isName n ∧ i ≤ 10 then some (.key n i) else none
          | none => none
        | _ => none

/-- A line's mnemonic and its two operands. -/
def readCommand (target : Option (List Char)) (cs : List Char) : Option AsmLine :=
  match Mnemonic.ofText (cs.takeWhile fun c => !c.isWhitespace),
      splitAtChar ',' (cs.dropWhile fun c => !c.isWhitespace) with
  | some m, (a, some b) =>
    match readOperand (trimText a), readOperand (trimText b) with
    | some oa, some ob => some ⟨target, m, oa, ob⟩
    | _, _ => none
  | _, _ => none

/-- A whole line; what follows `;` is a comment (R95). -/
def readLine (cs : List Char) : Option AsmLine :=
  let body := trimText (splitAtChar ';' cs).1
  match splitAtChar '=' body with
  | (_, none) => readCommand none body
  | (n, some rest) => if isName (trimText n) then readCommand (some (trimText n)) (trimText rest) else none

/-! ## Assembling a line -/

/-- What a host's name is bound to: a 16-byte or a 176-byte result (R95). -/
inductive HostValue where
  | block (v : Block)
  | schedule (w : Schedule)
  deriving DecidableEq, Repr

/-- The names a host has bound, the newest first. -/
abbrev HostNames := List (List Char × HostValue)

/-- The port value of an operand. `-` assembles to zeros and stands only for an operand the command ignores (R95, R98);
an unbound name, or a name of the wrong kind, has none. -/
def AsmOperand.port (names : HostNames) (used : Bool) : AsmOperand → Option PortWord
  | .literal v => some (pack v)
  | .ignored => if used then none else some 0
  | .name n =>
    match names.lookup n with
    | some (.block v) => some (pack v)
    | _ => none
  | .key n i =>
    match names.lookup n with
    | some (.schedule w) => if i ≤ 10 then some (pack (roundKey w i)) else none
    | _ => none

/-- The command a line assembles to (R98). -/
def AsmLine.assemble (names : HostNames) (l : AsmLine) : Option Command :=
  match l.a.port names l.mnemonic.format.usesA, l.b.port names l.mnemonic.format.usesB with
  | some a, some b => some ⟨l.mnemonic.op, a, b⟩
  | _, _ => none

/-- A hexadecimal digit. -/
def hexDigit (n : Nat) : Char := if n < 10 then Char.ofNat (48 + n) else Char.ofNat (87 + n)

/-- The command word as 65 hexadecimal digits: one for `op`, 32 for `a`, 32 for `b` (R81, R98). -/
def commandDigits (c : Command) : List Char :=
  (List.range 65).map fun i => hexDigit (c.word.toNat / 16 ^ (64 - i) % 16)

/-! ## A host running lines one after another -/

/-- The host binds a line's name to the result of the response; an error response gives nothing to bind (R95, R245). -/
def HostNames.bind (names : HostNames) (target : Option (List Char)) (rsp : Option Response) : HostNames :=
  match target, rsp with
  | some n, some (.block v) => (n, .block v) :: names
  | some n, some (.schedule w) => (n, .schedule w) :: names
  | _, _ => names

/-- The host presents a line's command to a core at rest, waits for the response and binds its name (R95, R244). Nothing
where the line does not assemble. -/
def runLine (names : HostNames) (s : State) (l : AsmLine) : Option (HostNames × State) :=
  match l.assemble names with
  | none => none
  | some c =>
    match step (s.withHost [⟨false, true, c⟩]) with
    | .next t => some (HostNames.bind names l.target t.response, t)
    | .fault _ => none
    | .refused _ => none

/-- The host runs lines in order. -/
def runLines (names : HostNames) (s : State) : List AsmLine → Option (HostNames × State)
  | [] => some (names, s)
  | l :: ls =>
    match runLine names s l with
    | none => none
    | some (names', s') => runLines names' s' ls

end Sys2Proof.Machine
end

