-- ==== Sys2Proof/Machine/Instances.lean ====
section
/-! DEFINITION. Several cores side by side: `n` independent copies of the model of one, with no identifiers, no shared
writable state and no way to signal one another (20_memory.md R74; 60_exceptions.md R214). -/

namespace Sys2Proof.Machine

/-- The states of some instances of the core. -/
abbrev Cluster := List State

/-- One step of instance `n`; nothing where there is no such instance. -/
def Cluster.stepAt (cl : Cluster) (n : Nat) : Option Cluster :=
  match cl[n]? with
  | none => none
  | some s =>
    match step s with
    | .next t => some (cl.set n t)
    | .fault _ => none
    | .refused _ => none

end Sys2Proof.Machine
end

