-- ==== Sys2Proof/Machine/Reference.lean ====
section
/-! DEFINITION. The commands as pure functions of their operands, the forms the spec gives for a model with no sequencer:
the schedule per round key (44_key_schedule.md R175), ENC and DEC as functions (45_block_orchestration.md R182, R185) and
the response as a function of `op`, `a`, `b` alone (10_state.md R39). The machine does not run these; claims compare it
with them. -/

namespace Sys2Proof.Machine

/-- Byte `i` of the round key numbered `n`, from the round key `p` before it (R175). -/
def nextRoundKeyByte (p : Block) (n : Nat) : Nat → Byte
  | 0 => byteAt p 0 ^^^ sbox (byteAt p 13) ^^^ rcon n
  | 1 => byteAt p 1 ^^^ sbox (byteAt p 14)
  | 2 => byteAt p 2 ^^^ sbox (byteAt p 15)
  | 3 => byteAt p 3 ^^^ sbox (byteAt p 12)
  | i + 4 => byteAt p (i + 4) ^^^ nextRoundKeyByte p n i

/-- Round key `n` of the key `k`; round key 0 is the key (R175, R176). -/
def roundKeyOf (k : Block) : Nat → Block
  | 0 => k
  | n + 1 => tabulate 16 (nextRoundKeyByte (roundKeyOf k n) (n + 1))

/-- The schedule of the key `k`: round key `n` is bytes `16n` to `16n+15` (R52, R175). -/
def scheduleOf (k : Block) : Schedule := tabulate 176 fun j => byteAt (roundKeyOf k (j / 16)) (j % 16)

/-- `X0 .. X9` of R182: the State after ENC's round `n`. -/
def encState (p k : Block) : Nat → Block
  | 0 => addRoundKey p (roundKeyOf k 0)
  | n + 1 => addRoundKey (mixColumns (shiftRows (subBytes (encState p k n)))) (roundKeyOf k (n + 1))

/-- `ENC(plaintext, key) = Last(X9)` (R182). -/
def encryptBlock (p k : Block) : Block := addRoundKey (shiftRows (subBytes (encState p k 9))) (roundKeyOf k 10)

/-- `decState c k m` is `Y(10-m)` of R185: the State after DEC's `m`-th round. -/
def decState (c k : Block) : Nat → Block
  | 0 => addRoundKey c (roundKeyOf k 10)
  | m + 1 => invMixColumns (addRoundKey (invSubBytes (invShiftRows (decState c k m))) (roundKeyOf k (9 - m)))

/-- `DEC(ciphertext, key) = ILast(Y1)` (R185). -/
def decryptBlock (c k : Block) : Block := addRoundKey (invSubBytes (invShiftRows (decState c k 9))) (roundKeyOf k 0)

/-- What a command is answered, from `op`, `a` and `b` alone (R35, R39, R203). -/
def respond (c : Command) : Response :=
  match decode c with
  | .ok (.enc a b) => .block (encryptBlock (bytes a) (bytes b))
  | .ok (.expandkey _ b) => .schedule (scheduleOf (bytes b))
  | .ok (.subbytes a _) => .block (subBytes (bytes a))
  | .ok (.shiftrows a _) => .block (shiftRows (bytes a))
  | .ok (.mixcolumns a _) => .block (mixColumns (bytes a))
  | .ok (.addroundkey a b) => .block (addRoundKey (bytes a) (bytes b))
  | .ok (.dec a b) => .block (decryptBlock (bytes a) (bytes b))
  | .ok (.invsubbytes a _) => .block (invSubBytes (bytes a))
  | .ok (.invshiftrows a _) => .block (invShiftRows (bytes a))
  | .ok (.invmixcolumns a _) => .block (invMixColumns (bytes a))
  | .error _ => .illegalOp

end Sys2Proof.Machine
end

