-- ==== Sys2Proof/Safety.lean ====
section
/-! DEFINITION. What a safe run is, in the terms the claims use: the counters stay in their ranges, no step ends in the
middle of an operation, and what the registers hold in each phase is what the spec's tables say. -/

namespace Sys2Proof.Machine

/-- RND, POS and RCI are in the ranges R29, R30 and R31 give them. -/
abbrev State.CountersInRange (s : State) : Prop :=
  s.RND ≤ 10 ∧ 16 ≤ s.POS ∧ s.POS ≤ 176 ∧ 1 ≤ s.RCI ∧ s.RCI ≤ 11

/-- No operation is in progress: the core is in IDLE, or gives a response. -/
abbrev State.AtRest (s : State) : Prop := s.PHASE = .idle ∨ s.PHASE = .done

/-- K is the captured key operand and W its whole schedule, with the sequencer where the expansion leaves it (R22, R23,
R174). -/
abbrev State.KeyExpanded (s : State) : Prop :=
  s.K = bytes s.cap.b ∧ s.W = scheduleOf s.K ∧ s.POS = 176 ∧ s.RCI = 11

/-- The opcode is that of ENC or DEC. -/
abbrev State.RunsCipher (s : State) : Prop := s.cap.op = Op.enc ∨ s.cap.op = Op.dec

/-- The opcode is that of one of the seven single-transform commands. -/
abbrev State.RunsTransform (s : State) : Prop :=
  s.cap.op ∈ [Op.subbytes, Op.shiftrows, Op.mixcolumns, Op.addroundkey, Op.invsubbytes, Op.invshiftrows, Op.invmixcolumns]

/-- What LOAD leaves (R28, R58, R140, R170, R181, R184). -/
abbrev State.Loaded (s : State) : Prop :=
  (s.RunsCipher ∧ s.S = bytes s.cap.a ∧ s.KeyExpanded) ∨ (s.cap.op = Op.expandkey ∧ s.KeyExpanded) ∨
    (s.RunsTransform ∧ s.S = bytes s.cap.a)

/-- What ENC's or DEC's round `n` leaves in S: `Xn` or `Yn` (R182, R185), `n` in 0..9 for ENC and 10..1 for DEC. -/
abbrev State.RoundDone (s : State) : Prop :=
  s.S = if s.cap.op = Op.enc then encState (bytes s.cap.a) (bytes s.cap.b) s.RND
    else decState (bytes s.cap.a) (bytes s.cap.b) (10 - s.RND)

/-- The state is one an operation passes through: what each phase's registers hold is fixed by the captured command
(R23, R28, R29, R39, R182, R185). -/
abbrev State.Legal (s : State) : Prop :=
  match s.PHASE with
  | .idle => True
  | .load => s.Loaded
  | .xform => s.RunsTransform ∧ Response.block s.S = respond s.cap
  | .init => s.RunsCipher ∧ s.KeyExpanded ∧ s.RND = (if s.cap.op = Op.enc then 0 else 10) ∧ s.RoundDone
  | .round => s.RunsCipher ∧ s.KeyExpanded ∧ 1 ≤ s.RND ∧ s.RND ≤ 9 ∧ s.RoundDone
  | .final => s.RunsCipher ∧ s.KeyExpanded ∧ s.RND = (if s.cap.op = Op.enc then 10 else 0) ∧
      Response.block s.S = respond s.cap
  | .done => s.response = some (respond s.cap)

/-- The invariant of runs: every state between steps, and every state inside an operation, meets it. -/
abbrev State.Inv (s : State) : Prop := s.CountersInRange ∧ s.Legal

end Sys2Proof.Machine
end

