-- ==== Sys2Proof/Certificates/Slice0/Obligations.lean ====
section
/-! DEFINITION. The statements about the machine, one `def Obligations.<Name> : Prop` each. An instruction's statement says
of every state that `exec` answers a next state there, and what it holds. -/

open Sys2Proof Sys2Proof.Machine

/-! ## Encoding -/

/-- R81, R84: encoding and then decoding gives back every well-formed instruction, both operands at every value. -/
def Obligations.DecodeOfEncodeIsTheInstruction : Prop :=
  ∀ i : Instr, i.wellFormed = true → decodeWord (encodeWord i) = .ok i

/-- R84: a command word that decodes is the encoding of what it decodes to. -/
def Obligations.DecodedWordIsTheEncoding : Prop :=
  ∀ (w : BitVec 260) (i : Instr), decodeWord w = .ok i → encodeWord i = w

/-- R84: all sixteen values of `op`. -/
def Obligations.OpcodeMapCoversAllSixteenValues : Prop :=
  ∀ a b : PortWord,
    decode ⟨0x0, a, b⟩ = .error (.reservedOpcode 0x0) ∧ decode ⟨0x1, a, b⟩ = .ok (.enc a b) ∧
    decode ⟨0x2, a, b⟩ = .ok (.expandkey a b) ∧ decode ⟨0x3, a, b⟩ = .error (.reservedOpcode 0x3) ∧
    decode ⟨0x4, a, b⟩ = .ok (.subbytes a b) ∧ decode ⟨0x5, a, b⟩ = .ok (.shiftrows a b) ∧
    decode ⟨0x6, a, b⟩ = .ok (.mixcolumns a b) ∧ decode ⟨0x7, a, b⟩ = .ok (.addroundkey a b) ∧
    decode ⟨0x8, a, b⟩ = .error (.reservedOpcode 0x8) ∧ decode ⟨0x9, a, b⟩ = .ok (.dec a b) ∧
    decode ⟨0xA, a, b⟩ = .error (.reservedOpcode 0xA) ∧ decode ⟨0xB, a, b⟩ = .error (.reservedOpcode 0xB) ∧
    decode ⟨0xC, a, b⟩ = .ok (.invsubbytes a b) ∧ decode ⟨0xD, a, b⟩ = .ok (.invshiftrows a b) ∧
    decode ⟨0xE, a, b⟩ = .ok (.invmixcolumns a b) ∧ decode ⟨0xF, a, b⟩ = .error (.reservedOpcode 0xF)

/-- R82: `op` is `inv` over `fn`, and where a function has a separate inverse the two opcodes differ in `inv` alone. -/
def Obligations.InverseOpcodeDiffersInInvOnly : Prop :=
  ∀ a b : PortWord,
    (∀ i ∈ [Instr.enc a b, .expandkey a b, .subbytes a b, .shiftrows a b, .mixcolumns a b, .addroundkey a b],
      opInv (encode i).op = false) ∧
    (∀ ij ∈ [(Instr.enc a b, Instr.dec a b), (.subbytes a b, .invsubbytes a b), (.shiftrows a b, .invshiftrows a b),
        (.mixcolumns a b, .invmixcolumns a b)],
      opInv (encode ij.2).op = true ∧ opFn (encode ij.2).op = opFn (encode ij.1).op)

/-- R98, R84: command words written out from the spec decode to the commands they stand for. -/
def Obligations.WrittenCommandWordsDecode : Prop :=
  decodeWord 0x100112233445566778899aabbccddeeff000102030405060708090a0b0c0d0e0f =
    .ok (.enc 0x00112233445566778899aabbccddeeff 0x000102030405060708090a0b0c0d0e0f) ∧
  decodeWord 0x969c4e0d86a7b0430d8cdb78070b4c55a000102030405060708090a0b0c0d0e0f =
    .ok (.dec 0x69c4e0d86a7b0430d8cdb78070b4c55a 0x000102030405060708090a0b0c0d0e0f) ∧
  decodeWord 0x2000000000000000000000000000000002b7e151628aed2a6abf7158809cf4f3c =
    .ok (.expandkey 0 0x2b7e151628aed2a6abf7158809cf4f3c) ∧
  decodeWord 0xd00050a0f04090e03080d02070c01060b00000000000000000000000000000000 =
    .ok (.invshiftrows 0x00050a0f04090e03080d02070c01060b 0)

/-! ## The command port -/

/-- R33, R57: in IDLE a step is `exec` of the command presented. The clause for DONE, where the core first goes back to
IDLE and then accepts in the same step, is the model's choice, log entry 6. -/
def Obligations.StepRunsTheDecodedCommand : Prop :=
  ∀ (s : State) (c : Command) (rest : List HostInput) (i : Instr), s.host = ⟨false, true, c⟩ :: rest → decode c = .ok i →
    (s.PHASE = .idle → step s = exec i (s.withHost rest)) ∧
    (s.PHASE = .done → step s = exec i (s.withHost rest).leaveDone)

/-- Log entry 9: the step after `withFetchWord` runs the instruction its table word decodes to. -/
def Obligations.FetchWordRunsNext : Prop :=
  ∀ (s : State) (nbits w : Nat) (i : Instr), decodeTableWord nbits w = some i →
    step (s.withFetchWord nbits w) = exec i ((s.withPHASE .idle).withHost s.host.tail)

/-- R203, R208: a reserved opcode gets ILLEGAL_OP whatever the operands, S, K, W and T are not written, and the next
command is answered as if the bad one had never come. That RND, POS and RCI keep their values is the model's choice, log
entry 12; that the next command is accepted in the step that leaves DONE is log entry 6's. -/
def Obligations.ReservedOpcodeGetsIllegalOp : Prop :=
  ∀ (s : State) (c : Command) (rest : List HostInput), s.PHASE = .idle → s.host = ⟨false, true, c⟩ :: rest →
    c.op ∈ reservedOps →
    ∃ t, step s = .next t ∧ t.PHASE = .done ∧ t.err = true ∧ t.response = some .illegalOp ∧
      t.S = s.S ∧ t.K = s.K ∧ t.W = s.W ∧ t.T = s.T ∧ t.RND = s.RND ∧ t.POS = s.POS ∧ t.RCI = s.RCI ∧ t.host = rest ∧
      ∀ (c' : Command) (rest' : List HostInput), ∃ u,
        step (t.withHost (⟨false, true, c'⟩ :: rest')) = .next u ∧ u.response = some (respond c')

/-- R34, R202, R204: `err` is 1 at the response to a reserved opcode and at no other. That a core in DONE accepts in the
same step is the model's choice, log entry 6. -/
def Obligations.ErrIsSetByReservedOpcodesOnly : Prop :=
  ∀ (s : State) (c : Command) (rest : List HostInput), s.AtRest → s.host = ⟨false, true, c⟩ :: rest →
    ∃ t, step s = .next t ∧ t.PHASE = .done ∧ (t.err = true ↔ c.op ∈ reservedOps) ∧
      (t.err = false ↔ c.op ∈ assignedOps)

/-- R33: acceptance copies `op`, `a`, `b`; exactly one response follows; then the core is back in IDLE; and between
acceptance and response no command is accepted. That a core in DONE accepts in the step that leaves DONE is the model's
choice, log entry 6; that a state in the middle of an operation reaches its response in one step and uses up one host
entry is log entry 8's. -/
def Obligations.AcceptedCommandHasExactlyOneResponse : Prop :=
  (∀ (s : State) (c : Command) (rest : List HostInput), s.AtRest → s.host = ⟨false, true, c⟩ :: rest →
    ∃ t, step s = .next t ∧ t.cap = c ∧ t.rspValid = true ∧ t.cmdReady = false ∧ t.host = rest ∧
      ∀ (q : HostInput) (rest' : List HostInput), q.rst = false → q.cmdValid = false →
        ∃ u, step (t.withHost (q :: rest')) = .next u ∧ u.cmdReady = true ∧ u.rspValid = false ∧ u.response = none) ∧
  (∀ (s : State) (p : HostInput) (rest : List HostInput), ¬ s.AtRest → s.host = p :: rest → p.rst = false →
    ∃ t, step s = .next t ∧ t.cap = s.cap ∧ t.rspValid = true ∧ t.host = rest)

/-- R57, R244: what the host drives while an operation is in progress changes nothing, short of reset. -/
def Obligations.BusyCoreIgnoresThePorts : Prop :=
  ∀ (s : State) (p q : HostInput) (rest : List HostInput), ¬ s.AtRest → p.rst = false → q.rst = false →
    step (s.withHost (p :: rest)) = step (s.withHost (q :: rest))

/-- R215: with nothing presented, the core waits in IDLE. That one step takes it from DONE to waiting is the model's choice,
log entry 6. -/
def Obligations.IdleCoreWaitsForACommand : Prop :=
  ∀ s : State, s.AtRest → s.ports.rst = false → s.ports.cmdValid = false →
    ∃ t, step s = .next t ∧ t.PHASE = .idle ∧ t.cmdReady = true ∧ t.response = none

/-- R40, R230: reset, whatever the core is doing, leaves IDLE, ready, with no response. -/
def Obligations.ResetAlwaysLeadsToIdle : Prop :=
  ∀ s : State, s.ports.rst = true →
    ∃ t, step s = .next t ∧ t.PHASE = .idle ∧ t.cmdReady = true ∧ t.rspValid = false ∧ t.response = none

/-- R40: the state the model starts from is a state after reset. -/
def Obligations.StartStateIsIdleAndReady : Prop :=
  State.reset.PHASE = .idle ∧ State.reset.cmdReady = true ∧ State.reset.rspValid = false ∧ State.reset.host = []

/-- R251, R64: every accepted command reaches its response. R251 says finitely many steps; that it is one step, that every
step from every state (RND out of its range included) ends in IDLE or DONE, and that a state in the middle of an operation
finishes in one step are the model's choice, log entries 6 and 8. -/
def Obligations.EveryStepReachesARestingState : Prop :=
  ∀ s : State, ∃ t, step s = .next t ∧ t.AtRest ∧
    (s.ports.rst = false → (¬ s.AtRest ∨ s.ports.cmdValid = true) → t.PHASE = .done)

/-! ## Invariants and whole-machine rules -/

/-- Every step keeps the invariant: the counters in the ranges of R29 to R31, and in each phase the registers and the
response at what the captured command alone fixes (R23, R28, R39). The ranges while the core is idle are the model's
choice, log entry 2. -/
def Obligations.StepKeepsTheInvariant : Prop :=
  ∀ s t : State, s.Inv → step s = .next t → t.Inv

/-- The start state meets the invariant; the counters' values there are log entry 1's. -/
def Obligations.StartStateMeetsTheInvariant : Prop := State.reset.Inv

/-- The same inside an operation: acceptance and each transition of the sequencer keep the invariant (R23, R28 to R31,
R175, R182, R185). The ranges of RND, POS and RCI on the way from DONE to IDLE, and of RND from FINAL to DONE, are the
model's choice, log entry 2. -/
def Obligations.SequencerKeepsTheInvariant : Prop :=
  (∀ (s : State) (c : Command), s.CountersInRange → (State.begin c s).Inv) ∧ ∀ s : State, s.Inv → s.advance.Inv

/-- R39: two cores that have been through different things give the same response to the same command. That a core in
DONE accepts in the same step is the model's choice, log entry 6. -/
def Obligations.ResponseDependsOnTheCommandAlone : Prop :=
  ∀ (s s' : State) (c : Command) (rest rest' : List HostInput), s.AtRest → s'.AtRest →
    s.host = ⟨false, true, c⟩ :: rest → s'.host = ⟨false, true, c⟩ :: rest' →
    ∃ t t', step s = .next t ∧ step s' = .next t' ∧ t.response.isSome = true ∧ t.response = t'.response

/-- R35, R182, R185, R175, R140, R203: the response to any command, reserved ones too, is the function of `op`, `a` and
`b` the spec defines. That a core in DONE accepts in the same step is the model's choice, log entry 6. -/
def Obligations.EveryCommandIsAnsweredAsSpecified : Prop :=
  ∀ (s : State) (c : Command) (rest : List HostInput), s.AtRest → s.host = ⟨false, true, c⟩ :: rest →
    ∃ t, step s = .next t ∧ t.response = some (respond c)

/-- The meanings and the sequencer agree: `exec` is acceptance and then 12, 1 or 2 transitions (R28, R140, R170, R181,
R184). -/
def Obligations.ExecIsTheSequencersRun : Prop :=
  ∀ (i : Instr) (s : State),
    exec i s = .next (State.advance^[match i.format with | .BK => 12 | .K => 1 | .S => 2 | .SK => 2] (State.begin (encode i) s))

/-- R28: the transition table, and that the phases an operation goes through depend on its opcode alone. -/
def Obligations.PhaseTransitionsFollowTheTable : Prop :=
  (∀ (s : State) (c : Command), (State.begin c s).PHASE = if c.op ∈ assignedOps then .load else .done) ∧
  (∀ s : State, (s.PHASE = .idle → s.advance.PHASE = .idle) ∧
    (s.PHASE = .load → s.RunsCipher → s.advance.PHASE = .init) ∧
    (s.PHASE = .load → s.RunsTransform → s.advance.PHASE = .xform) ∧
    (s.PHASE = .load → s.cap.op = Op.expandkey → s.advance.PHASE = .done) ∧
    (s.PHASE = .xform → s.advance.PHASE = .done) ∧
    (s.PHASE = .init → s.advance.PHASE = .round) ∧
    (s.PHASE = .round → s.cap.op = Op.enc →
      if s.RND < 9 then s.advance.PHASE = .round ∧ s.advance.RND = s.RND + 1 else s.advance.PHASE = .final) ∧
    (s.PHASE = .round → s.cap.op = Op.dec →
      if 1 < s.RND then s.advance.PHASE = .round ∧ s.advance.RND = s.RND - 1 else s.advance.PHASE = .final) ∧
    (s.PHASE = .final → s.advance.PHASE = .done) ∧
    (s.PHASE = .done → s.advance.PHASE = .idle)) ∧
  (∀ (s s' : State) (c c' : Command) (n : Nat), c.op = c'.op →
    (State.advance^[n] (State.begin c s)).PHASE = (State.advance^[n] (State.begin c' s')).PHASE)

/-- R29: ENC's INIT has RND 0, its rounds 1 to 9 and FINAL 10; DEC's 10, 9 down to 1, and 0; and the round key of that
index is the one the phase's AddRoundKey uses, as `Xn` and `Yn` of R182 and R185 say. -/
def Obligations.RoundRegisterCountsTheRoundKeys : Prop :=
  ∀ (s : State) (a b : PortWord) (n : Nat), n ≤ 10 →
    (State.advance^[n + 1] (State.begin ⟨0x1, a, b⟩ s)).RND = n ∧
    (State.advance^[n + 1] (State.begin ⟨0x9, a, b⟩ s)).RND = 10 - n ∧
    (State.advance^[n + 1] (State.begin ⟨0x1, a, b⟩ s)).PHASE =
      (if n = 0 then .init else if n = 10 then .final else .round) ∧
    (State.advance^[n + 1] (State.begin ⟨0x9, a, b⟩ s)).PHASE =
      (if n = 0 then .init else if n = 10 then .final else .round) ∧
    (State.advance^[n + 1] (State.begin ⟨0x1, a, b⟩ s)).S =
      (if n = 10 then encryptBlock (bytes a) (bytes b) else encState (bytes a) (bytes b) n) ∧
    (State.advance^[n + 1] (State.begin ⟨0x9, a, b⟩ s)).S =
      (if n = 10 then decryptBlock (bytes a) (bytes b) else decState (bytes a) (bytes b) n)

/-! ## What the commands touch -/

/-- R140, R25: the seven single-transform commands put the transform of their operand into S and onto `r` and touch none
of K, W, T; what the host drives next is as before. That RND, POS and RCI are as before is the model's choice, log
entry 12. -/
def Obligations.TransformCommandsTouchOnlyS : Prop :=
  ∀ (s : State) (i : Instr), i.format = .S ∨ i.format = .SK →
    ∃ t, exec i s = .next t ∧ t.PHASE = .done ∧ t.err = false ∧ t.cap = encode i ∧
      t.S = xformOf (encode i) (bytes (encode i).a) ∧ t.r = pack t.S ∧
      t.K = s.K ∧ t.W = s.W ∧ t.T = s.T ∧ t.RND = s.RND ∧ t.POS = s.POS ∧ t.RCI = s.RCI ∧ t.host = s.host ∧
      (∀ a, t.memRead .sched a = s.memRead .sched a) ∧
      ∀ sp, sp = .sbox ∨ sp = .invSbox ∨ sp = .rcon → ∀ a, t.memRead sp a = s.memRead sp a

/-- R25, R170: EXPANDKEY changes K, W, T, POS and RCI, and neither S nor RND. -/
def Obligations.ExpandKeyLeavesSAlone : Prop :=
  ∀ (s : State) (a b : PortWord),
    ∃ t, exec (.expandkey a b) s = .next t ∧ t.PHASE = .done ∧ t.err = false ∧ t.cap = ⟨0x2, a, b⟩ ∧
      t.S = s.S ∧ t.RND = s.RND ∧ t.host = s.host ∧ t.K = bytes b ∧ t.POS = 176 ∧ t.RCI = 11 ∧
      (∀ x, t.memRead .state x = s.memRead .state x) ∧
      ∀ sp, sp = .sbox ∨ sp = .invSbox ∨ sp = .rcon → ∀ x, t.memRead sp x = s.memRead sp x

/-- R22, R25: ENC and DEC use all of S, K, W, T and the sequencer; K holds the key operand, unchanged from its load to the
response; the tables and what the host drives next are as before. -/
def Obligations.CipherCommandsKeepTheKeyOperand : Prop :=
  ∀ (s : State) (a b : PortWord) (i : Instr), i = .enc a b ∨ i = .dec a b →
    ∃ t, exec i s = .next t ∧ t.PHASE = .done ∧ t.err = false ∧ t.cap = encode i ∧ t.K = bytes b ∧ t.host = s.host ∧
      t.POS = 176 ∧ t.RCI = 11 ∧ (∀ j, j < 16 → byteAt t.W j = byteAt t.K j) ∧
      ∀ sp, sp = .sbox ∨ sp = .invSbox ∨ sp = .rcon → ∀ x, t.memRead sp x = s.memRead sp x

/-- R87: an operand the format ignores has no effect on the response. -/
def Obligations.IgnoredOperandHasNoEffect : Prop :=
  ∀ (s s' : State) (a a' b b' : PortWord),
    (∃ t t', exec (.expandkey a b) s = .next t ∧ exec (.expandkey a' b) s' = .next t' ∧ t.response = t'.response) ∧
    (∀ mk ∈ [Instr.subbytes, .shiftrows, .mixcolumns, .invsubbytes, .invshiftrows, .invmixcolumns],
      ∃ t t', exec (mk a b) s = .next t ∧ exec (mk a b') s' = .next t' ∧ t.response = t'.response)

/-! ## The commands' results -/

/-- R58, R59: operand load and result emit, byte by byte on the ports. -/
def Obligations.LoadAndEmitMoveBytesInIndexOrder : Prop :=
  ∀ (s : State) (i j : Nat), i < 16 → j < 176 →
    byteAt s.loadS.S i = s.cap.a.extractLsb' (120 - 8 * i) 8 ∧ byteAt s.loadK.K i = s.cap.b.extractLsb' (120 - 8 * i) 8 ∧
    s.emitBlock.r.extractLsb' (120 - 8 * i) 8 = byteAt s.S i ∧
    s.emitSchedule.sched.extractLsb' (1400 - 8 * j) 8 = byteAt s.W j

/-- R141: each of the 16 bytes is replaced with its S-box image; no State is left as it is; the two corner cases. -/
def Obligations.SubBytesReplacesEachByte : Prop :=
  ∀ (s : State) (a b : PortWord), decode ⟨0x4, a, b⟩ = .ok (.subbytes a b) ∧
    ∃ t, exec (.subbytes a b) s = .next t ∧ t.PHASE = .done ∧ t.err = false ∧ t.S = bytes t.r ∧
      (∀ i, i < 16 → portByte t.r i = sbox (portByte a i)) ∧ t.r ≠ a ∧
      (a = 0 → t.r = 0x63636363636363636363636363636363) ∧
      (a = BitVec.allOnes 128 → t.r = 0x16161616161616161616161616161616)

/-- R143: row `r` is rotated left by `r`. -/
def Obligations.ShiftRowsRotatesRowsLeft : Prop :=
  ∀ (s : State) (a b : PortWord), decode ⟨0x5, a, b⟩ = .ok (.shiftrows a b) ∧
    ∃ t, exec (.shiftrows a b) s = .next t ∧ t.PHASE = .done ∧ t.err = false ∧ t.S = bytes t.r ∧
      ∀ r c, r < 4 → c < 4 → portByte t.r (r + 4 * c) = portByte a (r + 4 * ((c + r) % 4))

/-- R144, R164: the two row shifts as index permutations `5i mod 16` and `13i mod 16`, and what follows from them. -/
def Obligations.RowShiftsAreIndexPermutations : Prop :=
  (∀ (v : Block) (i : Nat), i < 16 → byteAt (shiftRows v) i = byteAt v (5 * i % 16) ∧
    byteAt (invShiftRows v) i = byteAt v (13 * i % 16)) ∧
  (∀ v : Block, invShiftRows (shiftRows v) = v ∧ shiftRows (invShiftRows v) = v ∧
    shiftRows (shiftRows (shiftRows (shiftRows v))) = v ∧ invShiftRows v = shiftRows (shiftRows (shiftRows v))) ∧
  ∀ v : Block, (∀ i, i < 16 → byteAt v i = byteAt v (i % 4)) → shiftRows v = v ∧ invShiftRows v = v

/-- R146: each column is multiplied by the MixColumns matrix; `2*` and `3*` are products in the field. -/
def Obligations.MixColumnsAppliesTheMatrix : Prop :=
  ∀ (s : State) (a b : PortWord), decode ⟨0x6, a, b⟩ = .ok (.mixcolumns a b) ∧
    ∃ t, exec (.mixcolumns a b) s = .next t ∧ t.PHASE = .done ∧ t.err = false ∧ t.S = bytes t.r ∧
      ∀ c, c < 4 →
        let a0 := portByte a (4 * c); let a1 := portByte a (4 * c + 1)
        let a2 := portByte a (4 * c + 2); let a3 := portByte a (4 * c + 3)
        portByte t.r (4 * c) = multiply a0 2 ^^^ multiply a1 3 ^^^ a2 ^^^ a3 ∧
        portByte t.r (4 * c + 1) = a0 ^^^ multiply a1 2 ^^^ multiply a2 3 ^^^ a3 ∧
        portByte t.r (4 * c + 2) = a0 ^^^ a1 ^^^ multiply a2 2 ^^^ multiply a3 3 ∧
        portByte t.r (4 * c + 3) = multiply a0 3 ^^^ a1 ^^^ a2 ^^^ multiply a3 2

/-- R149: the State XOR the round key; as port values one XOR; applied twice it restores the State. -/
def Obligations.AddRoundKeyIsXorAndItsOwnInverse : Prop :=
  ∀ (s s' : State) (a b : PortWord), decode ⟨0x7, a, b⟩ = .ok (.addroundkey a b) ∧
    ∃ t u, exec (.addroundkey a b) s = .next t ∧ t.PHASE = .done ∧ t.err = false ∧ t.S = bytes t.r ∧
      (∀ i, i < 16 → portByte t.r i = portByte a i ^^^ portByte b i) ∧ t.r = a ^^^ b ∧
      exec (.addroundkey t.r b) s' = .next u ∧ u.r = a

/-- R161: each byte is replaced with its image under the inverse table, which undoes SUBBYTES and is undone by it. -/
def Obligations.InvSubBytesUndoesSubBytes : Prop :=
  ∀ (s s' : State) (a b b' : PortWord), decode ⟨0xC, a, b⟩ = .ok (.invsubbytes a b) ∧
    ∃ t u v, exec (.invsubbytes a b) s = .next t ∧ t.PHASE = .done ∧ t.err = false ∧ t.S = bytes t.r ∧
      (∀ i, i < 16 → portByte t.r i = invSbox (portByte a i)) ∧
      exec (.subbytes t.r b') s' = .next u ∧ u.r = a ∧
      exec (.subbytes a b') s' = .next v ∧ ∃ w, exec (.invsubbytes v.r b) s = .next w ∧ w.r = a

/-- R163: row `r` is rotated right by `r`, the exact inverse permutation. -/
def Obligations.InvShiftRowsRotatesRowsRight : Prop :=
  ∀ (s s' : State) (a b b' : PortWord), decode ⟨0xD, a, b⟩ = .ok (.invshiftrows a b) ∧
    ∃ t u, exec (.invshiftrows a b) s = .next t ∧ t.PHASE = .done ∧ t.err = false ∧ t.S = bytes t.r ∧
      (∀ r c, r < 4 → c < 4 → portByte t.r (r + 4 * ((c + r) % 4)) = portByte a (r + 4 * c)) ∧
      exec (.shiftrows t.r b') s' = .next u ∧ u.r = a

/-- R165: each column is multiplied by the inverse matrix; `9*`, `11*`, `13*`, `14*` are products in the field. -/
def Obligations.InvMixColumnsAppliesTheInverseMatrix : Prop :=
  ∀ (s : State) (a b : PortWord), decode ⟨0xE, a, b⟩ = .ok (.invmixcolumns a b) ∧
    ∃ t, exec (.invmixcolumns a b) s = .next t ∧ t.PHASE = .done ∧ t.err = false ∧ t.S = bytes t.r ∧
      ∀ c, c < 4 →
        let a0 := portByte a (4 * c); let a1 := portByte a (4 * c + 1)
        let a2 := portByte a (4 * c + 2); let a3 := portByte a (4 * c + 3)
        portByte t.r (4 * c) = multiply a0 14 ^^^ multiply a1 11 ^^^ multiply a2 13 ^^^ multiply a3 9 ∧
        portByte t.r (4 * c + 1) = multiply a0 9 ^^^ multiply a1 14 ^^^ multiply a2 11 ^^^ multiply a3 13 ∧
        portByte t.r (4 * c + 2) = multiply a0 13 ^^^ multiply a1 9 ^^^ multiply a2 14 ^^^ multiply a3 11 ∧
        portByte t.r (4 * c + 3) = multiply a0 11 ^^^ multiply a1 13 ^^^ multiply a2 9 ^^^ multiply a3 14

/-- R166: MIXCOLUMNS and INVMIXCOLUMNS undo each other on every State, and so on every column. -/
def Obligations.InvMixColumnsUndoesMixColumns : Prop :=
  ∀ (s s' : State) (a b b' : PortWord),
    ∃ t u v w, exec (.mixcolumns a b) s = .next t ∧ exec (.invmixcolumns t.r b') s' = .next u ∧ u.r = a ∧
      exec (.invmixcolumns a b') s' = .next v ∧ exec (.mixcolumns v.r b) s = .next w ∧ w.r = a

/-- R147, R166: both are linear over XOR and leave a column of four equal bytes as it is. -/
def Obligations.ColumnTransformsAreLinear : Prop :=
  (∀ x y : Block, mixColumns (addRoundKey x y) = addRoundKey (mixColumns x) (mixColumns y) ∧
    invMixColumns (addRoundKey x y) = addRoundKey (invMixColumns x) (invMixColumns y)) ∧
  ∀ (v : Block) (c : Nat), c < 4 →
    (byteAt v (4 * c) = byteAt v (4 * c + 1) ∧ byteAt v (4 * c) = byteAt v (4 * c + 2) ∧
      byteAt v (4 * c) = byteAt v (4 * c + 3)) →
    ∀ r, r < 4 → byteAt (mixColumns v) (4 * c + r) = byteAt v (4 * c) ∧
      byteAt (invMixColumns v) (4 * c + r) = byteAt v (4 * c)

/-- R167: which transforms commute, that AddRoundKey and InvMixColumns do so for a round key exactly when InvMixColumns
leaves it as it is, and that some State and round key tell the two orders apart. -/
def Obligations.WhichInverseTransformsCommute : Prop :=
  (∀ v : Block, invSubBytes (invShiftRows v) = invShiftRows (invSubBytes v) ∧
    subBytes (shiftRows v) = shiftRows (subBytes v)) ∧
  (∀ v k : Block, invMixColumns (addRoundKey v k) = addRoundKey (invMixColumns v) (invMixColumns k)) ∧
  (∀ v k : Block, invMixColumns (addRoundKey v k) = addRoundKey (invMixColumns v) k ↔ invMixColumns k = k) ∧
  ∃ v k : Block, invMixColumns (addRoundKey v k) ≠ addRoundKey (invMixColumns v) k

/-- R170, R171, R174: EXPANDKEY answers with the whole of W on `sched`, round key 0 the key operand verbatim. -/
def Obligations.ExpandKeyEmitsTheSchedule : Prop :=
  ∀ (s : State) (a b : PortWord), decode ⟨0x2, a, b⟩ = .ok (.expandkey a b) ∧
    ∃ t, exec (.expandkey a b) s = .next t ∧ t.PHASE = .done ∧ t.err = false ∧ t.K = bytes b ∧
      t.response = some (.schedule t.W) ∧ schedBytes t.sched = t.W ∧ t.W = scheduleOf (bytes b) ∧
      roundKey t.W 0 = bytes b ∧ t.POS = 176 ∧ t.RCI = 11 ∧ t.S = s.S

/-- R172, R173: one group of the key schedule: the rolling word is the four bytes before, rotated, substituted and given
the round constant at a round-key boundary only; the group's bytes are its XOR with the bytes 16 positions earlier; no other
byte of W changes, and the counters move on. R171, R174: the expansion is the start and 40 groups, and the constants used
are 1 to 10 in turn. -/
def Obligations.ScheduleGroupFollowsTheRollingWord : Prop :=
  (∀ g : KeyRegs, 16 ≤ g.POS → g.POS ≤ 172 →
    (∀ k, k < 4 → byteAt g.group.T k =
      if g.POS % 16 = 0 then sbox (byteAt g.W (g.POS - 4 + (k + 1) % 4)) ^^^ (if k = 0 then rcon g.RCI else 0)
      else byteAt g.W (g.POS - 4 + k)) ∧
    (∀ k, k < 4 → byteAt g.group.W (g.POS + k) = byteAt g.W (g.POS + k - 16) ^^^ byteAt g.group.T k) ∧
    (∀ j, j < g.POS ∨ g.POS + 4 ≤ j → byteAt g.group.W j = byteAt g.W j) ∧
    g.group.POS = g.POS + 4 ∧ g.group.RCI = (if g.POS % 16 = 0 then g.RCI + 1 else g.RCI)) ∧
  ∀ s : State, s.expandKey.keyRegs = KeyRegs.groups 40 (KeyRegs.start s.K s.keyRegs) ∧
    (KeyRegs.start s.K s.keyRegs).POS = 16 ∧ (KeyRegs.start s.K s.keyRegs).RCI = 1 ∧
    (∀ j, j < 16 → byteAt (KeyRegs.start s.K s.keyRegs).W j = byteAt s.K j) ∧
    ∀ n, n ≤ 40 → (KeyRegs.groups n (KeyRegs.start s.K s.keyRegs)).POS = 16 + 4 * n ∧
      (KeyRegs.groups n (KeyRegs.start s.K s.keyRegs)).RCI = 1 + (n + 3) / 4

/-- R175: the schedule per round key, for ENC, DEC and EXPANDKEY alike, whatever W held before. -/
def Obligations.RoundKeyFollowsFromTheOneBefore : Prop :=
  ∀ (s : State) (a b : PortWord) (i : Instr), i = .expandkey a b ∨ i = .enc a b ∨ i = .dec a b →
    ∃ t, exec i s = .next t ∧ ∀ n, 1 ≤ n → n ≤ 10 →
      let P := roundKey t.W (n - 1); let N := roundKey t.W n
      byteAt N 0 = byteAt P 0 ^^^ sbox (byteAt P 13) ^^^ rcon n ∧
      byteAt N 1 = byteAt P 1 ^^^ sbox (byteAt P 14) ∧
      byteAt N 2 = byteAt P 2 ^^^ sbox (byteAt P 15) ∧
      byteAt N 3 = byteAt P 3 ^^^ sbox (byteAt P 12) ∧
      ∀ j, 4 ≤ j → j < 16 → byteAt N j = byteAt P j ^^^ byteAt N (j - 4)

/-- R182: ENC is the function `Last(X9)` of its two operands. -/
def Obligations.EncComputesTheCipherFunction : Prop :=
  ∀ (s : State) (a b : PortWord), decode ⟨0x1, a, b⟩ = .ok (.enc a b) ∧
    ∃ t, exec (.enc a b) s = .next t ∧ t.PHASE = .done ∧ t.err = false ∧ t.r = pack t.S ∧
      t.S = encryptBlock (bytes a) (bytes b) ∧ t.W = scheduleOf (bytes b)

/-- R185: DEC is the function `ILast(Y1)` of its two operands. -/
def Obligations.DecComputesTheInverseCipherFunction : Prop :=
  ∀ (s : State) (a b : PortWord), decode ⟨0x9, a, b⟩ = .ok (.dec a b) ∧
    ∃ t, exec (.dec a b) s = .next t ∧ t.PHASE = .done ∧ t.err = false ∧ t.r = pack t.S ∧
      t.S = decryptBlock (bytes a) (bytes b) ∧ t.W = scheduleOf (bytes b)

/-- R186: DEC undoes ENC and ENC undoes DEC, for every block and key, from any two states; and the intermediate States
are tied round by round. -/
def Obligations.DecAndEncUndoEachOther : Prop :=
  (∀ (s s' : State) (p k : PortWord), ∃ t u, exec (.enc p k) s = .next t ∧ exec (.dec t.r k) s' = .next u ∧ u.r = p) ∧
  (∀ (s s' : State) (c k : PortWord), ∃ t u, exec (.dec c k) s = .next t ∧ exec (.enc t.r k) s' = .next u ∧ u.r = c) ∧
  ∀ (p k : Block) (n : Nat), n < 10 →
    decState (encryptBlock p k) k n = shiftRows (subBytes (encState p k (9 - n)))

/-- R183: the document's known-answer test. -/
def Obligations.KnownAnswerEncryption : Prop :=
  ∀ s : State, ∃ t,
    exec (.enc 0x00112233445566778899aabbccddeeff 0x000102030405060708090a0b0c0d0e0f) s = .next t ∧
    t.r = 0x69c4e0d86a7b0430d8cdb78070b4c55a

/-- R181, R182, R246 (b): ENC's response is what the host gets by composing the single-transform commands with the round
keys cut from EXPANDKEY's schedule, here for round 1. -/
def Obligations.HostComposedRoundEqualsTheMachines : Prop :=
  ∀ (s : State) (p k : PortWord), ∃ e t0 t1 t2 t3 t4,
    exec (.expandkey 0 k) s = .next e ∧ exec (.addroundkey p (pack (roundKey (schedBytes e.sched) 0))) s = .next t0 ∧
    exec (.subbytes t0.r 0) s = .next t1 ∧ exec (.shiftrows t1.r 0) s = .next t2 ∧
    exec (.mixcolumns t2.r 0) s = .next t3 ∧
    exec (.addroundkey t3.r (pack (roundKey (schedBytes e.sched) 1))) s = .next t4 ∧
    bytes t4.r = (State.advance^[2] (State.begin ⟨0x1, p, k⟩ s)).S

/-! ## Field arithmetic and tables -/

/-- R111: xtime is the 9-bit shift reduced by 0x11B, and a bijection. -/
def Obligations.XtimeReducesTheShiftBy11B : Prop :=
  (∀ x : Byte, (x.getLsbD 7 = true → xtime x = (x <<< 1) ^^^ 0x1B) ∧ (x.getLsbD 7 = false → xtime x = x <<< 1) ∧
    xtime x = (let y : BitVec 9 := x.setWidth 9 <<< 1; if y.getLsbD 8 then y ^^^ 0x11B else y).setWidth 8) ∧
  Function.Bijective xtime

/-- R112, R115: multiply is the product of the field: XOR distributes, 1 is neutral, a factor `x` of the polynomial moves
out as xtime (which fixes the product of every two bytes), it commutes, and there are no zero divisors. -/
def Obligations.MultiplyIsTheFieldProduct : Prop :=
  ∀ x y z : Byte, multiply x 0 = 0 ∧ multiply 0 y = 0 ∧ multiply x 1 = x ∧ multiply x 2 = xtime x ∧
    multiply x y = multiply y x ∧ multiply x (y ^^^ z) = multiply x y ^^^ multiply x z ∧
    multiply x (xtime y) = xtime (multiply x y) ∧
    (multiply x y = 0 ↔ x = 0 ∨ y = 0)

/-- R113, R114: the constant multipliers equal the general product. -/
def Obligations.ConstantMultipliersEqualMultiply : Prop :=
  ∀ x : Byte, mul2 x = xtime x ∧ mul3 x = xtime x ^^^ x ∧ mul2 x = multiply x 0x02 ∧ mul3 x = multiply x 0x03 ∧
    mul9 x = multiply x 0x09 ∧ mul11 x = multiply x 0x0B ∧ mul13 x = multiply x 0x0D ∧ mul14 x = multiply x 0x0E

/-- R130, R133: the two tables are mutual inverses. -/
def Obligations.SubstitutionTablesAreMutualInverses : Prop :=
  ∀ x : Byte, invSbox (sbox x) = x ∧ sbox (invSbox x) = x

/-- R132 (from general knowledge, so the spec marks it): every entry of SBOX is the affine image of the inverse. -/
def Obligations.SboxIsTheAffineImageOfTheInverse : Prop :=
  sbox 0 = sboxAffine 0 ∧ ∀ x : Byte, x ≠ 0 → ∃ b, multiply x b = 1 ∧ sbox x = sboxAffine b

/-- R134: SBOX has no fixed point and sends no byte to its complement. -/
def Obligations.SboxHasNoFixedPoint : Prop :=
  ∀ x : Byte, sbox x ≠ x ∧ sbox x ≠ x ^^^ 0xff

/-- R135: the round constants are the powers of 0x02, entry 0 unused. -/
def Obligations.RoundConstantsArePowersOfTwo : Prop :=
  rcon 0 = 0 ∧ rcon 1 = 1 ∧ ∀ i, 1 ≤ i → i ≤ 9 → rcon (i + 1) = xtime (rcon i)

/-- R50, R66: a space has its cells and no others, the ROM spaces have no write, and a write changes its own cell only. -/
def Obligations.IndexSpacesHoldTheirCellsOnly : Prop :=
  ∀ (s : State) (sp : Space) (a : Nat) (v : Byte),
    ((s.memRead sp a).isSome = true ↔ a < sp.cells) ∧
    ((s.memWrite sp a v).isSome = true ↔ a < sp.cells ∧ (sp = .state ∨ sp = .sched)) ∧
    ∀ t, s.memWrite sp a v = some t → t.memRead sp a = some v ∧
      ∀ sp' a', (sp', a') ≠ (sp, a) → t.memRead sp' a' = s.memRead sp' a'

/-! ## Around the core -/

/-- R97: INVADDROUNDKEY is written for the command ADDROUNDKEY. -/
def Obligations.InvAddRoundKeyIsAddRoundKey : Prop :=
  ∀ (names : HostNames) (target : Option (List Char)) (a b : AsmOperand),
    (⟨target, .INVADDROUNDKEY, a, b⟩ : AsmLine).assemble names = (⟨target, .ADDROUNDKEY, a, b⟩ : AsmLine).assemble names ∧
    ∀ c, (⟨target, .INVADDROUNDKEY, a, b⟩ : AsmLine).assemble names = some c → c.op = 0x7

/-- R84, R96, R98: each mnemonic's line of byte strings assembles to its opcode and its operands, `-` to zeros, and the
command word's 65 digits are the digit of `op`, the 32 digits of `a` and the 32 digits of `b`, byte 0 first. -/
def Obligations.LineAssemblesToItsCommandWord : Prop :=
  ∀ (names : HostNames) (target : Option (List Char)) (v w : Block),
    let none16 : Block := Vector.replicate 16 0
    let digit : Nat → Option Char := fun n =>
      ['0', '1', '2', '3', '4', '5', '6', '7', '8', '9', 'a', 'b', 'c', 'd', 'e', 'f'][n]?
    ∀ x ∈ ([(.ENC, 0x1, .literal v, .literal w, v, w), (.EXPANDKEY, 0x2, .ignored, .literal w, none16, w),
        (.SUBBYTES, 0x4, .literal v, .ignored, v, none16), (.SHIFTROWS, 0x5, .literal v, .ignored, v, none16),
        (.MIXCOLUMNS, 0x6, .literal v, .ignored, v, none16), (.ADDROUNDKEY, 0x7, .literal v, .literal w, v, w),
        (.DEC, 0x9, .literal v, .literal w, v, w), (.INVSUBBYTES, 0xC, .literal v, .ignored, v, none16),
        (.INVSHIFTROWS, 0xD, .literal v, .ignored, v, none16), (.INVMIXCOLUMNS, 0xE, .literal v, .ignored, v, none16)] :
        List (Mnemonic × BitVec 4 × AsmOperand × AsmOperand × Block × Block)),
      match x with
      | (m, op, oa, ob, a, b) =>
        ∃ c, (⟨target, m, oa, ob⟩ : AsmLine).assemble names = some c ∧ c.op = op ∧ bytes c.a = a ∧ bytes c.b = b ∧
          c.word.toNat = op.toNat * 16 ^ 64 + c.a.toNat * 16 ^ 32 + c.b.toNat ∧
          (commandDigits c).length = 65 ∧ (commandDigits c)[0]? = digit op.toNat ∧
          ∀ i, i < 16 →
            (commandDigits c)[1 + 2 * i]? = digit ((byteAt a i).toNat / 16) ∧
            (commandDigits c)[2 + 2 * i]? = digit ((byteAt a i).toNat % 16) ∧
            (commandDigits c)[33 + 2 * i]? = digit ((byteAt b i).toNat / 16) ∧
            (commandDigits c)[34 + 2 * i]? = digit ((byteAt b i).toNat % 16)

/-- R74, R214: stepping one instance changes no other, and steps that one as if it were alone. -/
def Obligations.InstancesAreIndependent : Prop :=
  ∀ (cl cl' : Cluster) (n : Nat), cl.stepAt n = some cl' →
    (∀ m, m ≠ n → cl'[m]? = cl[m]?) ∧ ∃ s t, cl[n]? = some s ∧ step s = .next t ∧ cl'[n]? = some t
end

