-- ==== Sys2Proof/Laws/Assembly.lean ====
section
/-! SUPPORT. The command word as a number and its digits (30_encoding.md R81, R98). -/

namespace Sys2Proof.Machine

/-- The command word as a number: `op` is its top digit, `a` and `b` are 32 digits each (R81). -/
theorem word_toNat (c : Command) : c.word.toNat = c.op.toNat * 16 ^ 64 + c.a.toNat * 16 ^ 32 + c.b.toNat := by
  have ha := c.a.isLt
  have hb := c.b.isLt
  have hab : (c.a ++ c.b : BitVec 256).toNat = c.a.toNat * 2 ^ 128 + c.b.toNat := by
    rw [BitVec.toNat_append, ← Nat.shiftLeft_add_eq_or_of_lt hb, Nat.shiftLeft_eq]
  rw [Command.word, BitVec.toNat_append, ← Nat.shiftLeft_add_eq_or_of_lt (BitVec.isLt _), Nat.shiftLeft_eq, hab]
  omega

/-- A command word has 65 digits. -/
theorem commandDigits_length (c : Command) : (commandDigits c).length = 65 := by simp [commandDigits]

/-- Digit `k` of a command word, the most significant first. -/
theorem commandDigits_getElem? (c : Command) {k : Nat} (h : k < 65) :
    (commandDigits c)[k]? = some (hexDigit (c.word.toNat / 16 ^ (64 - k) % 16)) := by
  simp [commandDigits, h]

end Sys2Proof.Machine
end

