-- ==== Sys2Proof/Laws/Operands.lean ====
section
/-! SUPPORT. Byte vectors by index, and that packing onto a port and unpacking from it undo each other (20_memory.md
R56). -/

namespace Sys2Proof.Machine

theorem byteAt_eq_getElem {n : Nat} (v : Vector Byte n) (i : Nat) (h : i < n) : byteAt v i = v[i] := by
  simp [byteAt, h]

@[simp] theorem byteAt_tabulate {n : Nat} (f : Nat → Byte) {i : Nat} (h : i < n) : byteAt (tabulate n f) i = f i := by
  simp [byteAt, tabulate, h]

/-- Two byte vectors with the same bytes are the same. -/
theorem byteVector_ext {n : Nat} {u v : Vector Byte n} (h : ∀ i, i < n → byteAt u i = byteAt v i) : u = v := by
  ext i hi : 1
  simpa [byteAt_eq_getElem, hi] using h i hi

@[simp] theorem tabulate_byteAt {n : Nat} (v : Vector Byte n) : tabulate n (byteAt v) = v :=
  byteVector_ext fun _ h => byteAt_tabulate _ h

theorem tabulate_congr {n : Nat} {f g : Nat → Byte} (h : ∀ i, i < n → f i = g i) : tabulate n f = tabulate n g :=
  byteVector_ext fun i hi => by simp [hi, h i hi]

/-- What a byte write leaves at each index; a write past the end changes nothing. -/
theorem byteAt_setIfInBounds {n : Nat} (v : Vector Byte n) (j : Nat) (x : Byte) (i : Nat) :
    byteAt (v.setIfInBounds j x) i = if i = j ∧ j < n then x else byteAt v i := by
  by_cases hi : i < n
  · rw [byteAt_eq_getElem _ _ hi, byteAt_eq_getElem _ _ hi, Vector.getElem_setIfInBounds hi]
    grind
  · have hj : ¬ (i = j ∧ j < n) := by omega
    simp [byteAt, hi, hj]

theorem packNat_lt (f : Nat → Byte) (n : Nat) : packNat f n < 256 ^ n := by
  induction n with
  | zero => simp [packNat]
  | succ n ih =>
    have hb := (f n).isLt
    simp only [packNat, Nat.pow_succ]
    omega

/-- Byte `i` of the packed number, counted from the most significant. -/
theorem packNat_digit (f : Nat → Byte) (n i : Nat) (h : i < n) : packNat f n / 256 ^ (n - 1 - i) % 256 = (f i).toNat := by
  induction n with
  | zero => omega
  | succ n ih =>
    have hb := (f n).isLt
    rcases Nat.lt_succ_iff_lt_or_eq.mp h with hi | rfl
    · have he : n + 1 - 1 - i = (n - 1 - i) + 1 := by omega
      have hq : (packNat f n * 256 + (f n).toNat) / 256 = packNat f n := by omega
      rw [he, Nat.pow_succ', ← Nat.div_div_eq_div_mul, packNat, hq, ih hi]
    · simp only [packNat, Nat.add_sub_cancel, Nat.sub_self, Nat.pow_zero, Nat.div_one]
      omega

theorem portByte_pack (v : Block) {i : Nat} (h : i < 16) : portByte (pack v) i = byteAt v i := by
  have hlt := packNat_lt (byteAt v) 16
  have hd := packNat_digit (byteAt v) 16 i h
  have he : 2 ^ (120 - 8 * i) = 256 ^ (16 - 1 - i) := by
    rw [show (256 : Nat) = 2 ^ 8 from rfl, ← Nat.pow_mul]; congr 1; omega
  apply BitVec.eq_of_toNat_eq
  simp only [portByte, pack, BitVec.extractLsb'_toNat, BitVec.toNat_ofNat, Nat.shiftRight_eq_div_pow, he]
  rw [Nat.mod_eq_of_lt (b := 2 ^ 128) (by simpa using hlt)]
  exact hd

set_option exponentiation.threshold 1500 in
theorem schedByte_packSched (w : Schedule) {j : Nat} (h : j < 176) : schedByte (packSched w) j = byteAt w j := by
  have hlt := packNat_lt (byteAt w) 176
  have hd := packNat_digit (byteAt w) 176 j h
  have he : 2 ^ (1400 - 8 * j) = 256 ^ (176 - 1 - j) := by
    rw [show (256 : Nat) = 2 ^ 8 from rfl, ← Nat.pow_mul]; congr 1; omega
  have hp : 256 ^ 176 = 2 ^ 1408 := by
    rw [show (256 : Nat) = 2 ^ 8 from rfl, ← Nat.pow_mul]
  apply BitVec.eq_of_toNat_eq
  simp only [schedByte, packSched, BitVec.extractLsb'_toNat, BitVec.toNat_ofNat, Nat.shiftRight_eq_div_pow, he]
  rw [Nat.mod_eq_of_lt (b := 2 ^ 1408) (hp ▸ hlt)]
  exact hd

@[simp] theorem byteAt_bytes (p : PortWord) {i : Nat} (h : i < 16) : byteAt (bytes p) i = portByte p i :=
  byteAt_tabulate _ h

@[simp] theorem byteAt_schedBytes (p : SchedWord) {j : Nat} (h : j < 176) : byteAt (schedBytes p) j = schedByte p j :=
  byteAt_tabulate _ h

@[simp] theorem bytes_pack (v : Block) : bytes (pack v) = v :=
  byteVector_ext fun _ h => by rw [byteAt_bytes _ h, portByte_pack _ h]

@[simp] theorem schedBytes_packSched (w : Schedule) : schedBytes (packSched w) = w :=
  byteVector_ext fun _ h => by rw [byteAt_schedBytes _ h, schedByte_packSched _ h]

/-- A port value is fixed by its 16 bytes. -/
theorem portWord_ext {p q : PortWord} (h : ∀ i, i < 16 → portByte p i = portByte q i) : p = q := by
  apply BitVec.eq_of_getLsbD_eq
  intro k hk
  have hb := congrArg (fun b => b.getLsbD (k % 8)) (h (15 - k / 8) (by omega))
  simp only [portByte, BitVec.getLsbD_extractLsb'] at hb
  have hs : 120 - 8 * (15 - k / 8) + k % 8 = k := by omega
  have h8 : k % 8 < 8 := Nat.mod_lt _ (by decide)
  simpa [hs, h8] using hb

@[simp] theorem pack_bytes (p : PortWord) : pack (bytes p) = p :=
  portWord_ext fun _ h => by rw [portByte_pack _ h, byteAt_bytes _ h]

@[simp] theorem byteAt_roundKey (w : Schedule) (n : Nat) {i : Nat} (h : i < 16) :
    byteAt (roundKey w n) i = byteAt w (16 * n + i) :=
  byteAt_tabulate _ h

end Sys2Proof.Machine
end

