-- ==== Sys2Proof/Laws/State.lean ====
section
/-! SUPPORT. One lemma per field per named update of State, true by definition, so that no later proof unfolds a record
update. -/

namespace Sys2Proof.Machine

/-! The fields after `withS`. -/

@[simp] theorem State.withS_S (s : State) (v : Block) : (s.withS v).S = v := rfl
@[simp] theorem State.withS_K (s : State) (v : Block) : (s.withS v).K = s.K := rfl
@[simp] theorem State.withS_W (s : State) (v : Block) : (s.withS v).W = s.W := rfl
@[simp] theorem State.withS_T (s : State) (v : Block) : (s.withS v).T = s.T := rfl
@[simp] theorem State.withS_PHASE (s : State) (v : Block) : (s.withS v).PHASE = s.PHASE := rfl
@[simp] theorem State.withS_RND (s : State) (v : Block) : (s.withS v).RND = s.RND := rfl
@[simp] theorem State.withS_POS (s : State) (v : Block) : (s.withS v).POS = s.POS := rfl
@[simp] theorem State.withS_RCI (s : State) (v : Block) : (s.withS v).RCI = s.RCI := rfl
@[simp] theorem State.withS_cap (s : State) (v : Block) : (s.withS v).cap = s.cap := rfl
@[simp] theorem State.withS_err (s : State) (v : Block) : (s.withS v).err = s.err := rfl
@[simp] theorem State.withS_r (s : State) (v : Block) : (s.withS v).r = s.r := rfl
@[simp] theorem State.withS_sched (s : State) (v : Block) : (s.withS v).sched = s.sched := rfl
@[simp] theorem State.withS_host (s : State) (v : Block) : (s.withS v).host = s.host := rfl
@[simp] theorem State.withS_draws (s : State) (v : Block) : (s.withS v).draws = s.draws := rfl

/-! The fields after `withK`. -/

@[simp] theorem State.withK_S (s : State) (v : Block) : (s.withK v).S = s.S := rfl
@[simp] theorem State.withK_K (s : State) (v : Block) : (s.withK v).K = v := rfl
@[simp] theorem State.withK_W (s : State) (v : Block) : (s.withK v).W = s.W := rfl
@[simp] theorem State.withK_T (s : State) (v : Block) : (s.withK v).T = s.T := rfl
@[simp] theorem State.withK_PHASE (s : State) (v : Block) : (s.withK v).PHASE = s.PHASE := rfl
@[simp] theorem State.withK_RND (s : State) (v : Block) : (s.withK v).RND = s.RND := rfl
@[simp] theorem State.withK_POS (s : State) (v : Block) : (s.withK v).POS = s.POS := rfl
@[simp] theorem State.withK_RCI (s : State) (v : Block) : (s.withK v).RCI = s.RCI := rfl
@[simp] theorem State.withK_cap (s : State) (v : Block) : (s.withK v).cap = s.cap := rfl
@[simp] theorem State.withK_err (s : State) (v : Block) : (s.withK v).err = s.err := rfl
@[simp] theorem State.withK_r (s : State) (v : Block) : (s.withK v).r = s.r := rfl
@[simp] theorem State.withK_sched (s : State) (v : Block) : (s.withK v).sched = s.sched := rfl
@[simp] theorem State.withK_host (s : State) (v : Block) : (s.withK v).host = s.host := rfl
@[simp] theorem State.withK_draws (s : State) (v : Block) : (s.withK v).draws = s.draws := rfl

/-! The fields after `withW`. -/

@[simp] theorem State.withW_S (s : State) (v : Schedule) : (s.withW v).S = s.S := rfl
@[simp] theorem State.withW_K (s : State) (v : Schedule) : (s.withW v).K = s.K := rfl
@[simp] theorem State.withW_W (s : State) (v : Schedule) : (s.withW v).W = v := rfl
@[simp] theorem State.withW_T (s : State) (v : Schedule) : (s.withW v).T = s.T := rfl
@[simp] theorem State.withW_PHASE (s : State) (v : Schedule) : (s.withW v).PHASE = s.PHASE := rfl
@[simp] theorem State.withW_RND (s : State) (v : Schedule) : (s.withW v).RND = s.RND := rfl
@[simp] theorem State.withW_POS (s : State) (v : Schedule) : (s.withW v).POS = s.POS := rfl
@[simp] theorem State.withW_RCI (s : State) (v : Schedule) : (s.withW v).RCI = s.RCI := rfl
@[simp] theorem State.withW_cap (s : State) (v : Schedule) : (s.withW v).cap = s.cap := rfl
@[simp] theorem State.withW_err (s : State) (v : Schedule) : (s.withW v).err = s.err := rfl
@[simp] theorem State.withW_r (s : State) (v : Schedule) : (s.withW v).r = s.r := rfl
@[simp] theorem State.withW_sched (s : State) (v : Schedule) : (s.withW v).sched = s.sched := rfl
@[simp] theorem State.withW_host (s : State) (v : Schedule) : (s.withW v).host = s.host := rfl
@[simp] theorem State.withW_draws (s : State) (v : Schedule) : (s.withW v).draws = s.draws := rfl

/-! The fields after `withT`. -/

@[simp] theorem State.withT_S (s : State) (v : RollingWord) : (s.withT v).S = s.S := rfl
@[simp] theorem State.withT_K (s : State) (v : RollingWord) : (s.withT v).K = s.K := rfl
@[simp] theorem State.withT_W (s : State) (v : RollingWord) : (s.withT v).W = s.W := rfl
@[simp] theorem State.withT_T (s : State) (v : RollingWord) : (s.withT v).T = v := rfl
@[simp] theorem State.withT_PHASE (s : State) (v : RollingWord) : (s.withT v).PHASE = s.PHASE := rfl
@[simp] theorem State.withT_RND (s : State) (v : RollingWord) : (s.withT v).RND = s.RND := rfl
@[simp] theorem State.withT_POS (s : State) (v : RollingWord) : (s.withT v).POS = s.POS := rfl
@[simp] theorem State.withT_RCI (s : State) (v : RollingWord) : (s.withT v).RCI = s.RCI := rfl
@[simp] theorem State.withT_cap (s : State) (v : RollingWord) : (s.withT v).cap = s.cap := rfl
@[simp] theorem State.withT_err (s : State) (v : RollingWord) : (s.withT v).err = s.err := rfl
@[simp] theorem State.withT_r (s : State) (v : RollingWord) : (s.withT v).r = s.r := rfl
@[simp] theorem State.withT_sched (s : State) (v : RollingWord) : (s.withT v).sched = s.sched := rfl
@[simp] theorem State.withT_host (s : State) (v : RollingWord) : (s.withT v).host = s.host := rfl
@[simp] theorem State.withT_draws (s : State) (v : RollingWord) : (s.withT v).draws = s.draws := rfl

/-! The fields after `withPHASE`. -/

@[simp] theorem State.withPHASE_S (s : State) (v : Phase) : (s.withPHASE v).S = s.S := rfl
@[simp] theorem State.withPHASE_K (s : State) (v : Phase) : (s.withPHASE v).K = s.K := rfl
@[simp] theorem State.withPHASE_W (s : State) (v : Phase) : (s.withPHASE v).W = s.W := rfl
@[simp] theorem State.withPHASE_T (s : State) (v : Phase) : (s.withPHASE v).T = s.T := rfl
@[simp] theorem State.withPHASE_PHASE (s : State) (v : Phase) : (s.withPHASE v).PHASE = v := rfl
@[simp] theorem State.withPHASE_RND (s : State) (v : Phase) : (s.withPHASE v).RND = s.RND := rfl
@[simp] theorem State.withPHASE_POS (s : State) (v : Phase) : (s.withPHASE v).POS = s.POS := rfl
@[simp] theorem State.withPHASE_RCI (s : State) (v : Phase) : (s.withPHASE v).RCI = s.RCI := rfl
@[simp] theorem State.withPHASE_cap (s : State) (v : Phase) : (s.withPHASE v).cap = s.cap := rfl
@[simp] theorem State.withPHASE_err (s : State) (v : Phase) : (s.withPHASE v).err = s.err := rfl
@[simp] theorem State.withPHASE_r (s : State) (v : Phase) : (s.withPHASE v).r = s.r := rfl
@[simp] theorem State.withPHASE_sched (s : State) (v : Phase) : (s.withPHASE v).sched = s.sched := rfl
@[simp] theorem State.withPHASE_host (s : State) (v : Phase) : (s.withPHASE v).host = s.host := rfl
@[simp] theorem State.withPHASE_draws (s : State) (v : Phase) : (s.withPHASE v).draws = s.draws := rfl

/-! The fields after `withRND`. -/

@[simp] theorem State.withRND_S (s : State) (v : Nat) : (s.withRND v).S = s.S := rfl
@[simp] theorem State.withRND_K (s : State) (v : Nat) : (s.withRND v).K = s.K := rfl
@[simp] theorem State.withRND_W (s : State) (v : Nat) : (s.withRND v).W = s.W := rfl
@[simp] theorem State.withRND_T (s : State) (v : Nat) : (s.withRND v).T = s.T := rfl
@[simp] theorem State.withRND_PHASE (s : State) (v : Nat) : (s.withRND v).PHASE = s.PHASE := rfl
@[simp] theorem State.withRND_RND (s : State) (v : Nat) : (s.withRND v).RND = v := rfl
@[simp] theorem State.withRND_POS (s : State) (v : Nat) : (s.withRND v).POS = s.POS := rfl
@[simp] theorem State.withRND_RCI (s : State) (v : Nat) : (s.withRND v).RCI = s.RCI := rfl
@[simp] theorem State.withRND_cap (s : State) (v : Nat) : (s.withRND v).cap = s.cap := rfl
@[simp] theorem State.withRND_err (s : State) (v : Nat) : (s.withRND v).err = s.err := rfl
@[simp] theorem State.withRND_r (s : State) (v : Nat) : (s.withRND v).r = s.r := rfl
@[simp] theorem State.withRND_sched (s : State) (v : Nat) : (s.withRND v).sched = s.sched := rfl
@[simp] theorem State.withRND_host (s : State) (v : Nat) : (s.withRND v).host = s.host := rfl
@[simp] theorem State.withRND_draws (s : State) (v : Nat) : (s.withRND v).draws = s.draws := rfl

/-! The fields after `withPOS`. -/

@[simp] theorem State.withPOS_S (s : State) (v : Nat) : (s.withPOS v).S = s.S := rfl
@[simp] theorem State.withPOS_K (s : State) (v : Nat) : (s.withPOS v).K = s.K := rfl
@[simp] theorem State.withPOS_W (s : State) (v : Nat) : (s.withPOS v).W = s.W := rfl
@[simp] theorem State.withPOS_T (s : State) (v : Nat) : (s.withPOS v).T = s.T := rfl
@[simp] theorem State.withPOS_PHASE (s : State) (v : Nat) : (s.withPOS v).PHASE = s.PHASE := rfl
@[simp] theorem State.withPOS_RND (s : State) (v : Nat) : (s.withPOS v).RND = s.RND := rfl
@[simp] theorem State.withPOS_POS (s : State) (v : Nat) : (s.withPOS v).POS = v := rfl
@[simp] theorem State.withPOS_RCI (s : State) (v : Nat) : (s.withPOS v).RCI = s.RCI := rfl
@[simp] theorem State.withPOS_cap (s : State) (v : Nat) : (s.withPOS v).cap = s.cap := rfl
@[simp] theorem State.withPOS_err (s : State) (v : Nat) : (s.withPOS v).err = s.err := rfl
@[simp] theorem State.withPOS_r (s : State) (v : Nat) : (s.withPOS v).r = s.r := rfl
@[simp] theorem State.withPOS_sched (s : State) (v : Nat) : (s.withPOS v).sched = s.sched := rfl
@[simp] theorem State.withPOS_host (s : State) (v : Nat) : (s.withPOS v).host = s.host := rfl
@[simp] theorem State.withPOS_draws (s : State) (v : Nat) : (s.withPOS v).draws = s.draws := rfl

/-! The fields after `withRCI`. -/

@[simp] theorem State.withRCI_S (s : State) (v : Nat) : (s.withRCI v).S = s.S := rfl
@[simp] theorem State.withRCI_K (s : State) (v : Nat) : (s.withRCI v).K = s.K := rfl
@[simp] theorem State.withRCI_W (s : State) (v : Nat) : (s.withRCI v).W = s.W := rfl
@[simp] theorem State.withRCI_T (s : State) (v : Nat) : (s.withRCI v).T = s.T := rfl
@[simp] theorem State.withRCI_PHASE (s : State) (v : Nat) : (s.withRCI v).PHASE = s.PHASE := rfl
@[simp] theorem State.withRCI_RND (s : State) (v : Nat) : (s.withRCI v).RND = s.RND := rfl
@[simp] theorem State.withRCI_POS (s : State) (v : Nat) : (s.withRCI v).POS = s.POS := rfl
@[simp] theorem State.withRCI_RCI (s : State) (v : Nat) : (s.withRCI v).RCI = v := rfl
@[simp] theorem State.withRCI_cap (s : State) (v : Nat) : (s.withRCI v).cap = s.cap := rfl
@[simp] theorem State.withRCI_err (s : State) (v : Nat) : (s.withRCI v).err = s.err := rfl
@[simp] theorem State.withRCI_r (s : State) (v : Nat) : (s.withRCI v).r = s.r := rfl
@[simp] theorem State.withRCI_sched (s : State) (v : Nat) : (s.withRCI v).sched = s.sched := rfl
@[simp] theorem State.withRCI_host (s : State) (v : Nat) : (s.withRCI v).host = s.host := rfl
@[simp] theorem State.withRCI_draws (s : State) (v : Nat) : (s.withRCI v).draws = s.draws := rfl

/-! The fields after `withCap`. -/

@[simp] theorem State.withCap_S (s : State) (v : Command) : (s.withCap v).S = s.S := rfl
@[simp] theorem State.withCap_K (s : State) (v : Command) : (s.withCap v).K = s.K := rfl
@[simp] theorem State.withCap_W (s : State) (v : Command) : (s.withCap v).W = s.W := rfl
@[simp] theorem State.withCap_T (s : State) (v : Command) : (s.withCap v).T = s.T := rfl
@[simp] theorem State.withCap_PHASE (s : State) (v : Command) : (s.withCap v).PHASE = s.PHASE := rfl
@[simp] theorem State.withCap_RND (s : State) (v : Command) : (s.withCap v).RND = s.RND := rfl
@[simp] theorem State.withCap_POS (s : State) (v : Command) : (s.withCap v).POS = s.POS := rfl
@[simp] theorem State.withCap_RCI (s : State) (v : Command) : (s.withCap v).RCI = s.RCI := rfl
@[simp] theorem State.withCap_cap (s : State) (v : Command) : (s.withCap v).cap = v := rfl
@[simp] theorem State.withCap_err (s : State) (v : Command) : (s.withCap v).err = s.err := rfl
@[simp] theorem State.withCap_r (s : State) (v : Command) : (s.withCap v).r = s.r := rfl
@[simp] theorem State.withCap_sched (s : State) (v : Command) : (s.withCap v).sched = s.sched := rfl
@[simp] theorem State.withCap_host (s : State) (v : Command) : (s.withCap v).host = s.host := rfl
@[simp] theorem State.withCap_draws (s : State) (v : Command) : (s.withCap v).draws = s.draws := rfl

/-! The fields after `withErr`. -/

@[simp] theorem State.withErr_S (s : State) (v : Bool) : (s.withErr v).S = s.S := rfl
@[simp] theorem State.withErr_K (s : State) (v : Bool) : (s.withErr v).K = s.K := rfl
@[simp] theorem State.withErr_W (s : State) (v : Bool) : (s.withErr v).W = s.W := rfl
@[simp] theorem State.withErr_T (s : State) (v : Bool) : (s.withErr v).T = s.T := rfl
@[simp] theorem State.withErr_PHASE (s : State) (v : Bool) : (s.withErr v).PHASE = s.PHASE := rfl
@[simp] theorem State.withErr_RND (s : State) (v : Bool) : (s.withErr v).RND = s.RND := rfl
@[simp] theorem State.withErr_POS (s : State) (v : Bool) : (s.withErr v).POS = s.POS := rfl
@[simp] theorem State.withErr_RCI (s : State) (v : Bool) : (s.withErr v).RCI = s.RCI := rfl
@[simp] theorem State.withErr_cap (s : State) (v : Bool) : (s.withErr v).cap = s.cap := rfl
@[simp] theorem State.withErr_err (s : State) (v : Bool) : (s.withErr v).err = v := rfl
@[simp] theorem State.withErr_r (s : State) (v : Bool) : (s.withErr v).r = s.r := rfl
@[simp] theorem State.withErr_sched (s : State) (v : Bool) : (s.withErr v).sched = s.sched := rfl
@[simp] theorem State.withErr_host (s : State) (v : Bool) : (s.withErr v).host = s.host := rfl
@[simp] theorem State.withErr_draws (s : State) (v : Bool) : (s.withErr v).draws = s.draws := rfl

/-! The fields after `withR`. -/

@[simp] theorem State.withR_S (s : State) (v : PortWord) : (s.withR v).S = s.S := rfl
@[simp] theorem State.withR_K (s : State) (v : PortWord) : (s.withR v).K = s.K := rfl
@[simp] theorem State.withR_W (s : State) (v : PortWord) : (s.withR v).W = s.W := rfl
@[simp] theorem State.withR_T (s : State) (v : PortWord) : (s.withR v).T = s.T := rfl
@[simp] theorem State.withR_PHASE (s : State) (v : PortWord) : (s.withR v).PHASE = s.PHASE := rfl
@[simp] theorem State.withR_RND (s : State) (v : PortWord) : (s.withR v).RND = s.RND := rfl
@[simp] theorem State.withR_POS (s : State) (v : PortWord) : (s.withR v).POS = s.POS := rfl
@[simp] theorem State.withR_RCI (s : State) (v : PortWord) : (s.withR v).RCI = s.RCI := rfl
@[simp] theorem State.withR_cap (s : State) (v : PortWord) : (s.withR v).cap = s.cap := rfl
@[simp] theorem State.withR_err (s : State) (v : PortWord) : (s.withR v).err = s.err := rfl
@[simp] theorem State.withR_r (s : State) (v : PortWord) : (s.withR v).r = v := rfl
@[simp] theorem State.withR_sched (s : State) (v : PortWord) : (s.withR v).sched = s.sched := rfl
@[simp] theorem State.withR_host (s : State) (v : PortWord) : (s.withR v).host = s.host := rfl
@[simp] theorem State.withR_draws (s : State) (v : PortWord) : (s.withR v).draws = s.draws := rfl

/-! The fields after `withSched`. -/

@[simp] theorem State.withSched_S (s : State) (v : SchedWord) : (s.withSched v).S = s.S := rfl
@[simp] theorem State.withSched_K (s : State) (v : SchedWord) : (s.withSched v).K = s.K := rfl
@[simp] theorem State.withSched_W (s : State) (v : SchedWord) : (s.withSched v).W = s.W := rfl
@[simp] theorem State.withSched_T (s : State) (v : SchedWord) : (s.withSched v).T = s.T := rfl
@[simp] theorem State.withSched_PHASE (s : State) (v : SchedWord) : (s.withSched v).PHASE = s.PHASE := rfl
@[simp] theorem State.withSched_RND (s : State) (v : SchedWord) : (s.withSched v).RND = s.RND := rfl
@[simp] theorem State.withSched_POS (s : State) (v : SchedWord) : (s.withSched v).POS = s.POS := rfl
@[simp] theorem State.withSched_RCI (s : State) (v : SchedWord) : (s.withSched v).RCI = s.RCI := rfl
@[simp] theorem State.withSched_cap (s : State) (v : SchedWord) : (s.withSched v).cap = s.cap := rfl
@[simp] theorem State.withSched_err (s : State) (v : SchedWord) : (s.withSched v).err = s.err := rfl
@[simp] theorem State.withSched_r (s : State) (v : SchedWord) : (s.withSched v).r = s.r := rfl
@[simp] theorem State.withSched_sched (s : State) (v : SchedWord) : (s.withSched v).sched = v := rfl
@[simp] theorem State.withSched_host (s : State) (v : SchedWord) : (s.withSched v).host = s.host := rfl
@[simp] theorem State.withSched_draws (s : State) (v : SchedWord) : (s.withSched v).draws = s.draws := rfl

/-! The fields after `withHost`. -/

@[simp] theorem State.withHost_S (s : State) (v : List HostInput) : (s.withHost v).S = s.S := rfl
@[simp] theorem State.withHost_K (s : State) (v : List HostInput) : (s.withHost v).K = s.K := rfl
@[simp] theorem State.withHost_W (s : State) (v : List HostInput) : (s.withHost v).W = s.W := rfl
@[simp] theorem State.withHost_T (s : State) (v : List HostInput) : (s.withHost v).T = s.T := rfl
@[simp] theorem State.withHost_PHASE (s : State) (v : List HostInput) : (s.withHost v).PHASE = s.PHASE := rfl
@[simp] theorem State.withHost_RND (s : State) (v : List HostInput) : (s.withHost v).RND = s.RND := rfl
@[simp] theorem State.withHost_POS (s : State) (v : List HostInput) : (s.withHost v).POS = s.POS := rfl
@[simp] theorem State.withHost_RCI (s : State) (v : List HostInput) : (s.withHost v).RCI = s.RCI := rfl
@[simp] theorem State.withHost_cap (s : State) (v : List HostInput) : (s.withHost v).cap = s.cap := rfl
@[simp] theorem State.withHost_err (s : State) (v : List HostInput) : (s.withHost v).err = s.err := rfl
@[simp] theorem State.withHost_r (s : State) (v : List HostInput) : (s.withHost v).r = s.r := rfl
@[simp] theorem State.withHost_sched (s : State) (v : List HostInput) : (s.withHost v).sched = s.sched := rfl
@[simp] theorem State.withHost_host (s : State) (v : List HostInput) : (s.withHost v).host = v := rfl
@[simp] theorem State.withHost_draws (s : State) (v : List HostInput) : (s.withHost v).draws = s.draws := rfl

/-! The fields after `withDraws`. -/

@[simp] theorem State.withDraws_S (s : State) (v : Nat) : (s.withDraws v).S = s.S := rfl
@[simp] theorem State.withDraws_K (s : State) (v : Nat) : (s.withDraws v).K = s.K := rfl
@[simp] theorem State.withDraws_W (s : State) (v : Nat) : (s.withDraws v).W = s.W := rfl
@[simp] theorem State.withDraws_T (s : State) (v : Nat) : (s.withDraws v).T = s.T := rfl
@[simp] theorem State.withDraws_PHASE (s : State) (v : Nat) : (s.withDraws v).PHASE = s.PHASE := rfl
@[simp] theorem State.withDraws_RND (s : State) (v : Nat) : (s.withDraws v).RND = s.RND := rfl
@[simp] theorem State.withDraws_POS (s : State) (v : Nat) : (s.withDraws v).POS = s.POS := rfl
@[simp] theorem State.withDraws_RCI (s : State) (v : Nat) : (s.withDraws v).RCI = s.RCI := rfl
@[simp] theorem State.withDraws_cap (s : State) (v : Nat) : (s.withDraws v).cap = s.cap := rfl
@[simp] theorem State.withDraws_err (s : State) (v : Nat) : (s.withDraws v).err = s.err := rfl
@[simp] theorem State.withDraws_r (s : State) (v : Nat) : (s.withDraws v).r = s.r := rfl
@[simp] theorem State.withDraws_sched (s : State) (v : Nat) : (s.withDraws v).sched = s.sched := rfl
@[simp] theorem State.withDraws_host (s : State) (v : Nat) : (s.withDraws v).host = s.host := rfl
@[simp] theorem State.withDraws_draws (s : State) (v : Nat) : (s.withDraws v).draws = v := rfl

end Sys2Proof.Machine
end

