-- ==== Sys2Proof/Laws/KeySchedule.lean ====
section
/-! SUPPORT. What the key schedule's operations do: their frame, the counters, and one group's bytes
(44_key_schedule.md R171 to R174). -/

namespace Sys2Proof.Machine

/-- What no operation of the key schedule touches (R170): everything but W, T, POS and RCI. -/
abbrev OutsideSchedule (s t : State) : Prop :=
  t.S = s.S ∧ t.K = s.K ∧ t.PHASE = s.PHASE ∧ t.RND = s.RND ∧ t.cap = s.cap ∧ t.err = s.err ∧ t.r = s.r ∧
    t.sched = s.sched ∧ t.host = s.host ∧ t.draws = s.draws

/-- Writing the schedule registers back leaves everything else alone. -/
theorem withKeyRegs_frame (s : State) (g : KeyRegs) : OutsideSchedule s (s.withKeyRegs g) :=
  ⟨rfl, rfl, rfl, rfl, rfl, rfl, rfl, rfl, rfl, rfl⟩

@[simp] theorem State.withKeyRegs_keyRegs (s : State) (g : KeyRegs) : (s.withKeyRegs g).keyRegs = g := rfl
@[simp] theorem State.withKeyRegs_W (s : State) (g : KeyRegs) : (s.withKeyRegs g).W = g.W := rfl
@[simp] theorem State.withKeyRegs_T (s : State) (g : KeyRegs) : (s.withKeyRegs g).T = g.T := rfl
@[simp] theorem State.withKeyRegs_POS (s : State) (g : KeyRegs) : (s.withKeyRegs g).POS = g.POS := rfl
@[simp] theorem State.withKeyRegs_RCI (s : State) (g : KeyRegs) : (s.withKeyRegs g).RCI = g.RCI := rfl

/-- The whole expansion leaves everything outside W, T, POS and RCI alone (R170). -/
theorem expandKey_frame (s : State) : OutsideSchedule s s.expandKey := withKeyRegs_frame s _

/-- Copying the key: `W[0..n-1] = K[0..n-1]`, the rest of W as before (R171). -/
theorem copyKey_spec (key : Block) (n : Nat) (hn : n ≤ 16) (w : Schedule) (i : Nat) :
    byteAt (copyKey key n w) i = if i < n then byteAt key i else byteAt w i := by
  induction n with
  | zero => simp [copyKey]
  | succ n ih =>
    rw [copyKey, byteAt_setIfInBounds, ih (by omega)]
    by_cases h : i = n
    · subst h; simp; omega
    · have : i < n + 1 ↔ i < n := by omega
      simp [h, this]

/-- The bytes of a group: `W[pos+k] = W[pos+k-16] ^ T[k]`, the rest of W as before (R173). -/
theorem writeGroup_spec (t : RollingWord) (pos n : Nat) (hn : n ≤ 4) (w : Schedule) (h16 : 16 ≤ pos)
    (h176 : pos + n ≤ 176) (i : Nat) :
    byteAt (writeGroup t pos n w) i =
      if pos ≤ i ∧ i < pos + n then byteAt w (i - 16) ^^^ byteAt t (i - pos) else byteAt w i := by
  induction n generalizing i with
  | zero =>
    have : ¬ (pos ≤ i ∧ i < pos + 0) := by omega
    simp only [writeGroup, this, if_false]
  | succ n ih =>
    simp only [writeGroup]
    rw [byteAt_setIfInBounds, ih (by omega) (by omega) i, ih (by omega) (by omega) (pos + n - 16)]
    have hold : ¬ (pos ≤ pos + n - 16 ∧ pos + n - 16 < pos + n) := by omega
    rw [if_neg hold]
    by_cases h : i = pos + n
    · subst h
      have h1 : pos + n < 176 := by omega
      simp [h1]
    · have : (pos ≤ i ∧ i < pos + (n + 1)) ↔ (pos ≤ i ∧ i < pos + n) := by omega
      simp [h, this]

/-- The rolling word of the next group, byte by byte (R172). -/
theorem byteAt_nextT (g : KeyRegs) {k : Nat} (hk : k < 4) :
    byteAt g.nextT k =
      if g.POS % 16 = 0 then sbox (byteAt g.W (g.POS - 4 + (k + 1) % 4)) ^^^ (if k = 0 then rcon g.RCI else 0)
      else byteAt g.W (g.POS - 4 + k) := by
  have h1 : (k + 1) % 4 < 4 := Nat.mod_lt _ (by decide)
  unfold KeyRegs.nextT
  split
  · by_cases h0 : k = 0
    · subst h0
      simp [addConstant, substituteWord, rotateWord, KeyRegs.rollingWord]
    · simp [addConstant, substituteWord, rotateWord, KeyRegs.rollingWord, hk, h0, h1]
  · simp [KeyRegs.rollingWord, hk]

/-- The last step of the first `n + 1` groups. -/
theorem groups_succ (n : Nat) (g : KeyRegs) : KeyRegs.groups (n + 1) g = (KeyRegs.groups n g).group := rfl

theorem groups_POS (n : Nat) (g : KeyRegs) : (KeyRegs.groups n g).POS = g.POS + 4 * n := by
  induction n with
  | zero => rfl
  | succ n ih => simp only [groups_succ, KeyRegs.group, ih]; omega

/-- The expansion ends with POS = 176 (R187). -/
theorem expand_POS (key : Block) (g : KeyRegs) : (KeyRegs.expand key g).POS = 176 := by
  rw [KeyRegs.expand, groups_POS]; rfl

end Sys2Proof.Machine
end

