-- ==== Sys2Proof/Laws/Ops.lean ====
section
/-! SUPPORT. One lemma for each shared operation: everything it does to the state, said once. -/

namespace Sys2Proof.Machine

/-- What an operation that writes none of S, K, W, T, RND, POS, RCI leaves unchanged. -/
abbrev SameRegisters (s t : State) : Prop :=
  t.S = s.S ∧ t.K = s.K ∧ t.W = s.W ∧ t.T = s.T ∧ t.RND = s.RND ∧ t.POS = s.POS ∧ t.RCI = s.RCI

/-- The draws of free output values touch the output ports and nothing else. -/
theorem freeOutputs_frame (s : State) :
    SameRegisters s s.freeOutputs ∧ s.freeOutputs.PHASE = s.PHASE ∧ s.freeOutputs.cap = s.cap ∧
      s.freeOutputs.host = s.host := by
  simp [SameRegisters, State.freeOutputs]

/-- Acceptance captures the command and touches no register (R57). -/
theorem accept_frame (c : Command) (s : State) :
    SameRegisters s (State.accept c s) ∧ (State.accept c s).PHASE = s.PHASE ∧ (State.accept c s).cap = c ∧
      (State.accept c s).host = s.host := by
  simp [SameRegisters, State.accept, State.freeOutputs]

/-- The error response: DONE with `err = 1`, no register touched (R203). -/
theorem raiseIllegalOp_spec (c : Command) (s : State) :
    SameRegisters s (State.raiseIllegalOp c s) ∧ (State.raiseIllegalOp c s).PHASE = .done ∧
      (State.raiseIllegalOp c s).cap = c ∧ (State.raiseIllegalOp c s).err = true ∧
      (State.raiseIllegalOp c s).host = s.host := by
  simp [SameRegisters, State.raiseIllegalOp, State.accept, State.freeOutputs, State.setErr]

/-- The core in IDLE: only PHASE, the host's list and the ranges of the counters are known (R29 to R31, R39, R40). -/
theorem toIdle_spec (s : State) :
    s.toIdle.PHASE = .idle ∧ s.toIdle.host = s.host ∧ s.toIdle.RND ≤ 10 ∧ 16 ≤ s.toIdle.POS ∧ s.toIdle.POS ≤ 176 ∧
      1 ≤ s.toIdle.RCI ∧ s.toIdle.RCI ≤ 11 := by
  simp [State.toIdle, State.freeOutputs, State.freeCounters, State.freeRND, State.freeWorking]
  omega

/-- Emit on `r`: DONE with the packed S and `err = 0`, no register touched (R59). -/
theorem emitBlock_spec (s : State) :
    SameRegisters s s.emitBlock ∧ s.emitBlock.PHASE = .done ∧ s.emitBlock.cap = s.cap ∧ s.emitBlock.err = false ∧
      s.emitBlock.r = pack s.S ∧ s.emitBlock.sched = s.sched ∧ s.emitBlock.host = s.host := by
  simp [SameRegisters, State.emitBlock, State.clearErr]

/-- Emit on `sched`: DONE with the packed W and `err = 0`, no register touched (R59). -/
theorem emitSchedule_spec (s : State) :
    SameRegisters s s.emitSchedule ∧ s.emitSchedule.PHASE = .done ∧ s.emitSchedule.cap = s.cap ∧
      s.emitSchedule.err = false ∧ s.emitSchedule.sched = packSched s.W ∧ s.emitSchedule.r = s.r ∧
      s.emitSchedule.host = s.host := by
  simp [SameRegisters, State.emitSchedule, State.clearErr]

/-- A whole single-transform command: S is the transform of the operand, `r` its packing, every other register as before
(R140). -/
theorem transformCommand_spec (c : Command) (f : Block → Block) (s : State) :
    (State.transformCommand c f s).S = f (bytes c.a) ∧ (State.transformCommand c f s).r = pack (f (bytes c.a)) ∧
      (State.transformCommand c f s).PHASE = .done ∧ (State.transformCommand c f s).err = false ∧
      (State.transformCommand c f s).cap = c ∧ (State.transformCommand c f s).K = s.K ∧
      (State.transformCommand c f s).W = s.W ∧ (State.transformCommand c f s).T = s.T ∧
      (State.transformCommand c f s).RND = s.RND ∧ (State.transformCommand c f s).POS = s.POS ∧
      (State.transformCommand c f s).RCI = s.RCI ∧ (State.transformCommand c f s).host = s.host := by
  simp [State.transformCommand, State.xformPhase, State.applyS, State.loadTransform, State.loadS, State.accept,
    State.freeOutputs, State.emitBlock, State.clearErr]

/-- What the host takes from a block response. -/
theorem response_block {s : State} (hp : s.PHASE = .done) (he : s.err = false) (hc : s.cap.op ≠ Op.expandkey) :
    s.response = some (.block (bytes s.r)) := by
  simpa [State.response, State.rspValid, hp, he] using hc

/-- What the host takes from EXPANDKEY's response. -/
theorem response_schedule {s : State} (hp : s.PHASE = .done) (he : s.err = false) (hc : s.cap.op = Op.expandkey) :
    s.response = some (.schedule (schedBytes s.sched)) := by
  simp [State.response, State.rspValid, hp, he, hc]

/-- What the host takes from an error response. -/
theorem response_illegalOp {s : State} (hp : s.PHASE = .done) (he : s.err = true) : s.response = some .illegalOp := by
  simp [State.response, State.rspValid, hp, he]

end Sys2Proof.Machine
end

