-- ==== Sys2Proof/Laws/PerInstr.lean ====
section
/-! SUPPORT. Facts about each instruction as syntax: its encoding carries an assigned opcode (30_encoding.md R84). -/

namespace Sys2Proof.Laws.AssignedOpcode

/-- The encoding of the instruction is a well-formed command: its opcode is assigned. -/
abbrev Statement (i : Instr) : Prop := (encode i).wellFormed = true

theorem enc (a b : PortWord) : Statement (.enc a b) := rfl
theorem expandkey (a b : PortWord) : Statement (.expandkey a b) := rfl
theorem subbytes (a b : PortWord) : Statement (.subbytes a b) := rfl
theorem shiftrows (a b : PortWord) : Statement (.shiftrows a b) := rfl
theorem mixcolumns (a b : PortWord) : Statement (.mixcolumns a b) := rfl
theorem addroundkey (a b : PortWord) : Statement (.addroundkey a b) := rfl
theorem dec (a b : PortWord) : Statement (.dec a b) := rfl
theorem invsubbytes (a b : PortWord) : Statement (.invsubbytes a b) := rfl
theorem invshiftrows (a b : PortWord) : Statement (.invshiftrows a b) := rfl
theorem invmixcolumns (a b : PortWord) : Statement (.invmixcolumns a b) := rfl

end Sys2Proof.Laws.AssignedOpcode
end

