-- ==== Sys2Proof/Laws/Step.lean ====
section
/-! SUPPORT. What a step can do, said once, and what the encoder's command is. -/

namespace Sys2Proof.Machine

/-- Every meaning answers a next state; none faults or refuses (R200, R204). -/
theorem exec_answers_next (i : Instr) (s : State) : ∃ t, exec i s = .next t := by
  cases i <;> exact ⟨_, rfl⟩

/-- The five things a step can do. -/
theorem step_cases {s t : State} (h : step s = .next t) :
    (s.ports.rst = true ∧ t = s.takePorts.applyReset) ∨
    (s.ports.rst = false ∧ s.PHASE ≠ .idle ∧ s.PHASE ≠ .done ∧ t = s.takePorts.finish) ∨
    (s.ports.rst = false ∧ ∃ s0, (s.PHASE = .idle ∧ s0 = s.takePorts ∨ s.PHASE = .done ∧ s0 = s.takePorts.leaveDone) ∧
      ((s.ports.cmdValid = false ∧ t = s0.waitIdle) ∨
       (s.ports.cmdValid = true ∧ ∃ i, decode s.ports.cmd = .ok i ∧ exec i s0 = .next t) ∨
       (s.ports.cmdValid = true ∧ ∃ e, decode s.ports.cmd = .error e ∧ t = State.raiseIllegalOp s.ports.cmd s0))) := by
  have serve_cases : ∀ s0, State.serve s.ports s0 = .next t →
      ((s.ports.cmdValid = false ∧ t = s0.waitIdle) ∨
       (s.ports.cmdValid = true ∧ ∃ i, decode s.ports.cmd = .ok i ∧ exec i s0 = .next t) ∨
       (s.ports.cmdValid = true ∧ ∃ e, decode s.ports.cmd = .error e ∧ t = State.raiseIllegalOp s.ports.cmd s0)) := by
    intro s0 hs
    unfold State.serve at hs
    cases hv : s.ports.cmdValid with
    | false => simp only [hv, Bool.false_eq_true, if_false, Host.Outcome.next.injEq] at hs; exact .inl ⟨rfl, hs.symm⟩
    | true =>
      simp only [hv, if_true] at hs
      cases hd : decode s.ports.cmd with
      | ok i => rw [hd] at hs; exact .inr (.inl ⟨rfl, i, rfl, hs⟩)
      | error e =>
        rw [hd] at hs
        simp only [Host.Outcome.next.injEq] at hs
        exact .inr (.inr ⟨rfl, e, rfl, hs.symm⟩)
  unfold step at h
  cases hr : s.ports.rst with
  | true => simp only [hr, if_true, Host.Outcome.next.injEq] at h; exact .inl ⟨rfl, h.symm⟩
  | false =>
    simp only [hr, Bool.false_eq_true, if_false] at h
    refine .inr ?_
    cases hp : s.PHASE <;> simp only [hp, Host.Outcome.next.injEq] at h
    case idle => exact .inr ⟨rfl, _, .inl ⟨rfl, rfl⟩, serve_cases _ h⟩
    case done => exact .inr ⟨rfl, _, .inr ⟨rfl, rfl⟩, serve_cases _ h⟩
    all_goals exact .inl ⟨rfl, by simp, by simp, h.symm⟩

end Sys2Proof.Machine
end

