-- ==== Sys2Proof/Laws/Transforms.lean ====
section
/-! SUPPORT. The seven round transforms byte by byte (42_round_transforms_forward.md, 43_round_transforms_inverse.md). -/

namespace Sys2Proof.Machine

@[simp] theorem byteAt_subBytes (v : Block) {i : Nat} (h : i < 16) : byteAt (subBytes v) i = sbox (byteAt v i) :=
  byteAt_tabulate _ h

@[simp] theorem byteAt_invSubBytes (v : Block) {i : Nat} (h : i < 16) :
    byteAt (invSubBytes v) i = invSbox (byteAt v i) :=
  byteAt_tabulate _ h

@[simp] theorem byteAt_addRoundKey (v k : Block) {i : Nat} (h : i < 16) :
    byteAt (addRoundKey v k) i = byteAt v i ^^^ byteAt k i :=
  byteAt_tabulate _ h

theorem byteAt_shiftRows (v : Block) {i : Nat} (h : i < 16) :
    byteAt (shiftRows v) i = byteAt v (i % 4 + 4 * ((i / 4 + i % 4) % 4)) :=
  byteAt_tabulate _ h

theorem byteAt_invShiftRows (v : Block) {i : Nat} (h : i < 16) :
    byteAt (invShiftRows v) i = byteAt v (i % 4 + 4 * ((i / 4 + (4 - i % 4)) % 4)) :=
  byteAt_tabulate _ h

/-- Byte `r` of column `c` of a column transform depends on column `c` alone (R147, R151). -/
theorem byteAt_mapColumns (f : Nat → Byte → Byte → Byte → Byte → Byte) (v : Block) {c r : Nat} (hc : c < 4) (hr : r < 4) :
    byteAt (mapColumns f v) (4 * c + r) =
      f r (byteAt v (4 * c)) (byteAt v (4 * c + 1)) (byteAt v (4 * c + 2)) (byteAt v (4 * c + 3)) := by
  rw [mapColumns, byteAt_tabulate _ (by omega), show (4 * c + r) / 4 = c by omega, show (4 * c + r) % 4 = r by omega]

end Sys2Proof.Machine
end

