-- ==== Sys2Proof/Tests/Slice0.lean ====
section
/-! SUPPORT. Tests on values the spec prints (the comment of each says where), the ill-formed commands that are refused,
and a concrete witness for the hypotheses of each statement that has any. -/

namespace Sys2Proof.Tests

open Sys2Proof.Machine

/-! ## Well-formedness: each reserved opcode is refused (30_encoding.md R88) -/

theorem test_op0_is_not_well_formed : (Command.mk 0x0 0 0).wellFormed = false := by decide
theorem test_op3_is_not_well_formed : (Command.mk 0x3 0 0).wellFormed = false := by decide
theorem test_op8_is_not_well_formed : (Command.mk 0x8 0 0).wellFormed = false := by decide
theorem test_opA_is_not_well_formed : (Command.mk 0xA 0 0).wellFormed = false := by decide
theorem test_opB_is_not_well_formed : (Command.mk 0xB 0 0).wellFormed = false := by decide
theorem test_opF_is_not_well_formed : (Command.mk 0xF 0 0).wellFormed = false := by decide
theorem test_assigned_ops_are_well_formed :
    ∀ op ∈ assignedOps, (Command.mk op 0 0).wellFormed = true ∧ op ∉ reservedOps := by decide

/-! ## Decoding: one command word for each constructor, written out from R81, R84 and 95_test_vectors.md section 2 -/

set_option exponentiation.threshold 300

theorem test_decode_enc : decodeWord 0x100112233445566778899aabbccddeeff000102030405060708090a0b0c0d0e0f =
    .ok (.enc 0x00112233445566778899aabbccddeeff 0x000102030405060708090a0b0c0d0e0f) := by rfl
theorem test_decode_expandkey : decodeWord 0x200000000000000000000000000000000ffffffffffffffffffffffffffffffff =
    .ok (.expandkey 0 0xffffffffffffffffffffffffffffffff) := by rfl
theorem test_decode_subbytes : decodeWord 0x400102030405060708090a0b0c0d0e0f000000000000000000000000000000000 =
    .ok (.subbytes 0x00102030405060708090a0b0c0d0e0f0 0) := by rfl
theorem test_decode_shiftrows : decodeWord 0x563cab7040953d051cd60e0e7ba70e18c00000000000000000000000000000000 =
    .ok (.shiftrows 0x63cab7040953d051cd60e0e7ba70e18c 0) := by rfl
theorem test_decode_mixcolumns : decodeWord 0x66353e08c0960e104cd70b751bacad0e700000000000000000000000000000000 =
    .ok (.mixcolumns 0x6353e08c0960e104cd70b751bacad0e7 0) := by rfl
theorem test_decode_addroundkey : decodeWord 0x75f72641557f5bc92f7be3b291db9f91ad6aa74fdd2af72fadaa678f1d6ab76fe =
    .ok (.addroundkey 0x5f72641557f5bc92f7be3b291db9f91a 0xd6aa74fdd2af72fadaa678f1d6ab76fe) := by rfl
theorem test_decode_dec : decodeWord 0x969c4e0d86a7b0430d8cdb78070b4c55a000102030405060708090a0b0c0d0e0f =
    .ok (.dec 0x69c4e0d86a7b0430d8cdb78070b4c55a 0x000102030405060708090a0b0c0d0e0f) := by rfl
theorem test_decode_invsubbytes : decodeWord 0xc637c777bf26b6fc53001672bfed7ab76deadbeefdeadbeefdeadbeefdeadbeef =
    .ok (.invsubbytes 0x637c777bf26b6fc53001672bfed7ab76 0xdeadbeefdeadbeefdeadbeefdeadbeef) := by rfl
theorem test_decode_invshiftrows : decodeWord 0xd00050a0f04090e03080d02070c01060b00000000000000000000000000000000 =
    .ok (.invshiftrows 0x00050a0f04090e03080d02070c01060b 0) := by rfl
theorem test_decode_invmixcolumns : decodeWord 0xe8e4da1bc9fdc589d01010101c6c6c6c600000000000000000000000000000000 =
    .ok (.invmixcolumns 0x8e4da1bc9fdc589d01010101c6c6c6c6 0) := by rfl
theorem test_decode_reserved : decodeWord 0xf69c4e0d86a7b0430d8cdb78070b4c55a13111d7fe3944a17f307a78b4d2b30c5 =
    .error (.reservedOpcode 0xF) := by rfl
theorem test_table_word_is_op_first : decodeTableWord 8 0x9 = some (.dec 0 0) ∧ decodeTableWord 8 0xA = none := by
  decide

/-! ## Results of the commands, by one step from reset (95_test_vectors.md sections 2.4 to 2.9) -/

/-- The result on `r` of a step that answered with `err = 0`. -/
def resultOf (o : Host.Outcome State Fault Refusal) : Option PortWord :=
  match o with
  | .next t => if t.err then none else some t.r
  | .fault _ => none
  | .refused _ => none

/-- One step from reset with the command `c` presented. -/
def runOne (c : Command) : Option PortWord := resultOf (step (State.reset.present c))

set_option maxRecDepth 20000

theorem test_subbytes : runOne ⟨0x4, 0x00102030405060708090a0b0c0d0e0f0, 0xdeadbeefdeadbeefdeadbeefdeadbeef⟩ =
    some 0x63cab7040953d051cd60e0e7ba70e18c := by decide +kernel
theorem test_shiftrows : runOne ⟨0x5, 0x63cab7040953d051cd60e0e7ba70e18c, 0⟩ =
    some 0x6353e08c0960e104cd70b751bacad0e7 := by decide +kernel
theorem test_mixcolumns : runOne ⟨0x6, 0xd4d4d4d52d26314c01000000d4bf5d30, 0⟩ =
    some 0xd5d5d7d64d7ebdf802010103046681e5 := by decide +kernel
theorem test_addroundkey : runOne ⟨0x7, 0x5f72641557f5bc92f7be3b291db9f91a, 0xd6aa74fdd2af72fadaa678f1d6ab76fe⟩ =
    some 0x89d810e8855ace682d1843d8cb128fe4 := by decide +kernel
theorem test_invsubbytes : runOne ⟨0xC, 0x89d810e8855ace682d1843d8cb128fe4, 0⟩ =
    some 0xf22d7cc86746ecf7fa34642d593973ae := by decide +kernel
theorem test_invshiftrows : runOne ⟨0xD, 0x0123456789abcdeffedcba9876543210, 0⟩ =
    some 0x0154baef89233298feab451076dccd67 := by decide +kernel
theorem test_invmixcolumns : runOne ⟨0xE, 0xdb135345f20a225c01010101c6c6c6c6, 0⟩ =
    some 0x32a41d55aec3698201010101c6c6c6c6 := by decide +kernel

/-- What the host takes from one step from reset with the command `c` presented. -/
def respondOne (c : Command) : Option Response :=
  match step (State.reset.present c) with
  | .next t => t.response
  | .fault _ => none
  | .refused _ => none

theorem test_reserved_opcode_is_answered_illegalOp :
    ∀ op ∈ reservedOps, respondOne ⟨op, 0x69c4e0d86a7b0430d8cdb78070b4c55a, 0x13111d7fe3944a17f307a78b4d2b30c5⟩ =
      some .illegalOp := by decide

/-- R177: the first group of the schedule of `000102..0f` is `d6aa74fd`. -/
theorem test_expandkey_first_group :
    ∀ k < 4, byteAt (State.loadExpand ⟨0x2, 0, 0x000102030405060708090a0b0c0d0e0f⟩ State.reset).W (16 + k) =
      byteAt (#v[0xd6, 0xaa, 0x74, 0xfd] : RollingWord) k := by decide +kernel

/-- 95_test_vectors.md section 3.1, line r1.ark: ENC's State after round 1. -/
theorem test_enc_state_after_round_1 :
    pack (State.begin ⟨0x1, 0x00112233445566778899aabbccddeeff, 0x000102030405060708090a0b0c0d0e0f⟩
      State.reset).advance.advance.S = 0x89d810e8855ace682d1843d8cb128fe4 := by decide +kernel

/-- 95_test_vectors.md section 3.2, line r9.imc: DEC's State after its first middle round, with round key 9. -/
theorem test_dec_state_after_round_9 :
    pack (invMixColumns (addRoundKey (invSubBytes (invShiftRows (bytes 0x7ad5fda789ef4e272bca100b3d9ff59f)))
      (bytes 0x549932d1f08557681093ed9cbe2c974e))) = 0x54d990a16ba09ab596bbf40ea111702f := by decide +kernel

/-- R186: the document's known answer, decrypted, in one step. -/
theorem test_dec : runOne ⟨0x9, 0x69c4e0d86a7b0430d8cdb78070b4c55a, 0x000102030405060708090a0b0c0d0e0f⟩ =
    some 0x00112233445566778899aabbccddeeff := by decide +kernel

/-- The key schedule does not read what W held before (R242): round key 1 comes out the same over a W of ones. -/
theorem test_schedule_ignores_left_over_bytes :
    byteAt (State.expandKey (State.reset.withW (Vector.replicate 176 0xff))).W 16 = 0x62 := by decide +kernel

/-! ## Field arithmetic (40_field_arithmetic.md R111 to R114) and the assembly syntax (R95 to R98) -/

theorem test_xtime_corners : xtime 0x80 = 0x1b ∧ xtime 0x7f = 0xfe ∧ xtime 0xff = 0xe5 ∧ xtime 0x57 = 0xae := by decide
theorem test_multiply : multiply 0x57 0x13 = 0xfe ∧ multiply 0x53 0xca = 0x01 ∧ multiply 0x80 0x80 = 0x9a := by decide
theorem test_inverse_multipliers : mul9 0xdb = 0x59 ∧ mul11 0xdb = 0xf4 ∧ mul13 0xdb = 0x18 ∧ mul14 0xdb = 0x6e := by
  decide

/-- R95: `k = expandkey -, k0 ; x`, lower case, a bound name and a comment. -/
theorem test_read_line :
    readLine ['k', ' ', '=', ' ', 'e', 'x', 'p', 'a', 'n', 'd', 'k', 'e', 'y', ' ', '-', ',', ' ', 'k', '0', ' ', ';', 'x'] =
      some ⟨some ['k'], .EXPANDKEY, .ignored, .name ['k', '0']⟩ := by decide +kernel

/-- R95: an operand `k[10]` is round key 10 of the schedule named `k`; there is no round key 11. -/
theorem test_read_round_key : readOperand ['k', '[', '1', '0', ']'] = some (.key ['k'] 10) ∧
    readOperand ['k', '[', '1', '1', ']'] = none := by decide +kernel

/-- R98: the example's line assembles to the 65 digits the rule prints. -/
theorem test_line_digits :
    ((⟨none, .ENC, .literal (bytes 0x00112233445566778899aabbccddeeff),
      .literal (bytes 0x000102030405060708090a0b0c0d0e0f)⟩ : AsmLine).assemble []).map commandDigits =
    some ("100112233445566778899aabbccddeeff000102030405060708090a0b0c0d0e0f".toList) := by decide +kernel

/-! ## Witnesses -/

/-- A core in IDLE after reset, with ENC of zeros presented and nothing after it. -/
def idleWithCommand : State := State.reset.withHost [⟨false, true, ⟨0x1, 0, 0⟩⟩]

/-- A core that has just answered a reserved opcode, with SUBBYTES of zeros presented next. -/
def doneWithCommand : State :=
  (State.raiseIllegalOp ⟨0xF, 0, 0⟩ State.reset).withHost [⟨false, true, ⟨0x4, 0, 0⟩⟩]

/-- A core in the middle of ENC, round 3, with DEC presented. -/
def busyWithCommand : State :=
  ((State.reset.withPHASE .round).withRND 3).withHost [⟨false, true, ⟨0x9, 0, 0⟩⟩]

theorem witness_DecodeOfEncodeIsTheInstruction : (Instr.enc 1 2).wellFormed = true := by decide
theorem witness_DecodedWordIsTheEncoding : decodeWord (encodeWord (.dec 1 2)) = .ok (.dec 1 2) := by rfl
theorem witness_StepRunsTheDecodedCommand_idle :
    idleWithCommand.host = [⟨false, true, ⟨0x1, 0, 0⟩⟩] ∧ decode ⟨0x1, 0, 0⟩ = .ok (.enc 0 0) ∧
      idleWithCommand.PHASE = .idle := ⟨rfl, rfl, rfl⟩
theorem witness_StepRunsTheDecodedCommand_done :
    doneWithCommand.host = [⟨false, true, ⟨0x4, 0, 0⟩⟩] ∧ decode ⟨0x4, 0, 0⟩ = .ok (.subbytes 0 0) ∧
      doneWithCommand.PHASE = .done := ⟨rfl, rfl, rfl⟩
theorem witness_FetchWordRunsNext : decodeTableWord 8 0x1 = some (.enc 0 0) := by decide
theorem witness_ReservedOpcodeGetsIllegalOp :
    (State.reset.present ⟨0xF, 0, 0⟩).PHASE = .idle ∧
      (State.reset.present ⟨0xF, 0, 0⟩).host = [⟨false, true, ⟨0xF, 0, 0⟩⟩] ∧ (0xF : BitVec 4) ∈ reservedOps :=
  ⟨rfl, rfl, by decide⟩
theorem witness_at_rest_with_a_command :
    idleWithCommand.AtRest ∧ idleWithCommand.host = [⟨false, true, ⟨0x1, 0, 0⟩⟩] ∧
      doneWithCommand.AtRest ∧ doneWithCommand.host = [⟨false, true, ⟨0x4, 0, 0⟩⟩] :=
  ⟨.inl rfl, rfl, .inr rfl, rfl⟩
theorem witness_ErrIsSetByReservedOpcodesOnly : (0x0 : BitVec 4) ∈ reservedOps ∧ (0x1 : BitVec 4) ∈ assignedOps := by
  decide
theorem witness_AcceptedCommandHasExactlyOneResponse_quiet :
    HostInput.quiet.rst = false ∧ HostInput.quiet.cmdValid = false := ⟨rfl, rfl⟩
theorem witness_AcceptedCommandHasExactlyOneResponse_busy :
    ¬ busyWithCommand.AtRest ∧ busyWithCommand.host = [⟨false, true, ⟨0x9, 0, 0⟩⟩] ∧
      (HostInput.mk false true ⟨0x9, 0, 0⟩).rst = false := by decide
theorem witness_BusyCoreIgnoresThePorts :
    ¬ busyWithCommand.AtRest ∧ (HostInput.mk false true ⟨0x9, 0, 0⟩).rst = false ∧ HostInput.quiet.rst = false := by
  decide
theorem witness_IdleCoreWaitsForACommand :
    State.reset.AtRest ∧ State.reset.ports.rst = false ∧ State.reset.ports.cmdValid = false := ⟨.inl rfl, rfl, rfl⟩
theorem witness_ResetAlwaysLeadsToIdle :
    (busyWithCommand.withHost [⟨true, false, ⟨0, 0, 0⟩⟩]).ports.rst = true := rfl
theorem witness_EveryStepReachesARestingState :
    busyWithCommand.ports.rst = false ∧ (¬ busyWithCommand.AtRest ∨ busyWithCommand.ports.cmdValid = true) :=
  ⟨rfl, .inr rfl⟩
/-- A core after round 3 of ENC of zeros under the key of zeros. -/
def inRound3 : State :=
  { State.reset with PHASE := .round, RND := 3, POS := 176, RCI := 11, cap := ⟨0x1, 0, 0⟩, K := bytes 0,
                     W := scheduleOf (bytes 0), S := encState (bytes 0) (bytes 0) 3 }

/-- A core after the last round of DEC of zeros under the key of zeros. -/
def inFinal : State :=
  { inRound3 with PHASE := .final, RND := 0, cap := ⟨0x9, 0, 0⟩, S := decryptBlock (bytes 0) (bytes 0) }

theorem inRound3_meets_the_invariant : inRound3.Inv :=
  ⟨by decide, .inl rfl, ⟨rfl, rfl, rfl, rfl⟩, by decide, by decide, rfl⟩
theorem inFinal_meets_the_invariant : inFinal.Inv := ⟨by decide, .inr rfl, ⟨rfl, rfl, rfl, rfl⟩, rfl, rfl⟩

theorem witness_StepKeepsTheInvariant_idle :
    State.reset.Inv ∧ step State.reset = .next State.reset.takePorts.waitIdle := ⟨⟨by decide, trivial⟩, rfl⟩
theorem witness_StepKeepsTheInvariant_busy :
    inRound3.Inv ∧ step inRound3 = .next inRound3.takePorts.finish := ⟨inRound3_meets_the_invariant, rfl⟩
theorem witness_StepKeepsTheInvariant_done :
    doneWithCommand.Inv ∧ doneWithCommand.PHASE = .done := ⟨⟨by decide, rfl⟩, rfl⟩
theorem witness_SequencerKeepsTheInvariant :
    State.reset.CountersInRange ∧ State.reset.Inv ∧ inRound3.Inv ∧ inFinal.Inv ∧ doneWithCommand.Inv :=
  ⟨by decide, ⟨by decide, trivial⟩, inRound3_meets_the_invariant, inFinal_meets_the_invariant, by decide, rfl⟩
theorem witness_ResponseDependsOnTheCommandAlone :
    idleWithCommand.AtRest ∧ (doneWithCommand.withHost [⟨false, true, ⟨0x1, 0, 0⟩⟩]).AtRest ∧
      idleWithCommand.host = [⟨false, true, ⟨0x1, 0, 0⟩⟩] ∧
      (doneWithCommand.withHost [⟨false, true, ⟨0x1, 0, 0⟩⟩]).host = [⟨false, true, ⟨0x1, 0, 0⟩⟩] :=
  ⟨.inl rfl, .inr rfl, rfl, rfl⟩
theorem witness_PhaseTransitionsFollowTheTable_cipher :
    (State.loadCipher ⟨0x1, 0, 0⟩ State.reset).PHASE = .load ∧ (State.reset.withCap ⟨0x9, 0, 0⟩).RunsCipher :=
  ⟨rfl, .inr rfl⟩
theorem witness_PhaseTransitionsFollowTheTable_transform :
    (State.loadTransform ⟨0xE, 0, 0⟩ State.reset).PHASE = .load ∧ (State.loadTransform ⟨0xE, 0, 0⟩ State.reset).RunsTransform :=
  ⟨rfl, by decide⟩
theorem witness_PhaseTransitionsFollowTheTable_expand :
    (State.loadExpand ⟨0x2, 0, 0⟩ State.reset).PHASE = .load ∧ (State.reset.withCap ⟨0x2, 0, 0⟩).cap.op = Op.expandkey :=
  ⟨rfl, rfl⟩
theorem witness_PhaseTransitionsFollowTheTable_phases :
    ∀ p : Phase, (State.reset.withPHASE p).PHASE = p := fun _ => rfl
theorem witness_PhaseTransitionsFollowTheTable_rounds :
    (busyWithCommand.withCap ⟨0x1, 0, 0⟩).PHASE = .round ∧ (busyWithCommand.withCap ⟨0x1, 0, 0⟩).cap.op = Op.enc ∧ busyWithCommand.RND < 9 ∧
      1 < busyWithCommand.RND ∧ (busyWithCommand.withCap ⟨0x9, 0, 0⟩).PHASE = .round ∧
      (busyWithCommand.withCap ⟨0x9, 0, 0⟩).cap.op = Op.dec := by decide
theorem witness_PhaseTransitionsFollowTheTable_last_rounds :
    ¬ (busyWithCommand.withRND 9).RND < 9 ∧ ¬ 1 < (busyWithCommand.withRND 1).RND := by decide
theorem witness_PhaseTransitionsFollowTheTable_same_op :
    (Command.mk 0x9 1 2).op = (Command.mk 0x9 3 4).op := rfl
theorem witness_RoundRegisterCountsTheRoundKeys : (0 : Nat) ≤ 10 ∧ (10 : Nat) ≤ 10 := by decide
theorem witness_TransformCommandsTouchOnlyS :
    (Instr.invmixcolumns 0 0).format = .S ∧ (Instr.addroundkey 0 0).format = .SK := ⟨rfl, rfl⟩
theorem witness_CipherCommandsKeepTheKeyOperand :
    Instr.dec 1 2 = .enc 1 2 ∨ Instr.dec 1 2 = .dec 1 2 := .inr rfl
theorem witness_LoadAndEmitMoveBytesInIndexOrder : (15 : Nat) < 16 ∧ (175 : Nat) < 176 := by decide
theorem witness_SubBytesReplacesEachByte : (15 : Nat) < 16 ∧ portByte 0 15 = 0 ∧ portByte (BitVec.allOnes 128) 0 = 0xff := by
  decide
theorem witness_row_and_column_in_range : (3 : Nat) < 4 ∧ (0 : Nat) < 4 := by decide
theorem witness_RowShiftsAreIndexPermutations :
    (15 : Nat) < 16 ∧ ∀ i < 16, byteAt (bytes 0xaabbccddaabbccddaabbccddaabbccdd) i =
      byteAt (bytes 0xaabbccddaabbccddaabbccddaabbccdd) (i % 4) := by decide +kernel
theorem witness_ScheduleGroupFollowsTheRollingWord :
    (16 ≤ State.reset.keyRegs.POS ∧ State.reset.keyRegs.POS ≤ 172 ∧ State.reset.keyRegs.POS % 16 = 0) ∧
      16 ≤ (State.reset.withPOS 172).keyRegs.POS ∧ (State.reset.withPOS 172).keyRegs.POS ≤ 172 ∧
      (State.reset.withPOS 172).keyRegs.POS % 16 ≠ 0 ∧ (40 : Nat) ≤ 40 := by decide
theorem witness_ColumnTransformsAreLinear :
    byteAt (Vector.replicate 16 0xc6 : Block) 12 = byteAt (Vector.replicate 16 0xc6 : Block) 13 ∧
      byteAt (Vector.replicate 16 0xc6 : Block) 12 = byteAt (Vector.replicate 16 0xc6 : Block) 14 ∧
      byteAt (Vector.replicate 16 0xc6 : Block) 12 = byteAt (Vector.replicate 16 0xc6 : Block) 15 := by decide
theorem witness_RoundKeyFollowsFromTheOneBefore :
    (Instr.dec 1 2 = .expandkey 1 2 ∨ Instr.dec 1 2 = .enc 1 2 ∨ Instr.dec 1 2 = .dec 1 2) ∧
      (1 : Nat) ≤ 10 ∧ (4 : Nat) ≤ 15 ∧ (15 : Nat) < 16 := ⟨.inr (.inr rfl), by decide⟩
theorem witness_DecAndEncUndoEachOther : (9 : Nat) < 10 := by decide
theorem witness_XtimeReducesTheShiftBy11B : (0x80 : Byte).getLsbD 7 = true ∧ (0x7f : Byte).getLsbD 7 = false := by decide
theorem witness_SboxIsTheAffineImageOfTheInverse : (0x53 : Byte) ≠ 0 := by decide
theorem witness_RoundConstantsArePowersOfTwo : (1 : Nat) ≤ 9 ∧ (9 : Nat) ≤ 9 := by decide
theorem witness_IndexSpacesHoldTheirCellsOnly :
    State.reset.memWrite .sched 175 0x5a = some (State.reset.writeSched 175 0x5a) ∧ (Space.sched, 174) ≠ (Space.sched, 175) :=
  ⟨rfl, by decide⟩
theorem witness_InvAddRoundKeyIsAddRoundKey :
    ((⟨none, .INVADDROUNDKEY, .literal (bytes 1), .literal (bytes 2)⟩ : AsmLine).assemble []).isSome = true := by decide
theorem witness_LineAssemblesToItsCommandWord :
    ((⟨none, .INVMIXCOLUMNS, .literal (bytes 1), .ignored⟩ : AsmLine).assemble []).isSome = true ∧ (15 : Nat) < 16 := by
  decide
theorem witness_InstancesAreIndependent :
    Cluster.stepAt [State.reset, State.reset] 1 = some [State.reset, State.reset.takePorts.waitIdle] := rfl

end Sys2Proof.Tests
end

section
/-! PROOFS. The index spaces: which cells a read and a write reach, and what a read gives after a write (00_scope.md R11;
20_memory.md R50, R66). -/

namespace Sys2Proof.Machine

/-! ## Reads -/

theorem State.memRead_state (s : State) (a : Nat) :
    s.memRead .state a = if a < 16 then some (byteAt s.S a) else none := rfl

theorem State.memRead_sched (s : State) (a : Nat) :
    s.memRead .sched a = if a < 176 then some (byteAt s.W a) else none := rfl

/-- A read answers exactly at the cells of its space. -/
theorem State.memRead_isSome_iff (s : State) (sp : Space) (a : Nat) :
    (s.memRead sp a).isSome = true ↔ a < sp.cells := by
  unfold State.memRead
  split
  next h => cases sp <;> simp [h]
  next h => simp [h]

/-! ## Writes -/

/-- All that a write can do: it is inside STATE or SCHED and sets that one byte of S or W. -/
theorem State.memWrite_eq_some_iff {s t : State} {sp : Space} {a : Nat} {v : Byte} :
    s.memWrite sp a v = some t ↔ a < sp.cells ∧
      (sp = .state ∧ t = s.withS (s.S.setIfInBounds a v) ∨ sp = .sched ∧ t = s.writeSched a v) := by
  unfold State.memWrite
  split
  next h => cases sp <;> simp [h, eq_comm]
  next h => simp [h]

/-- A write answers exactly at the cells of STATE and SCHED. -/
theorem State.memWrite_isSome_iff (s : State) (sp : Space) (a : Nat) (v : Byte) :
    (s.memWrite sp a v).isSome = true ↔ a < sp.cells ∧ (sp = .state ∨ sp = .sched) := by
  simp only [Option.isSome_iff_exists, State.memWrite_eq_some_iff, exists_and_left, exists_or, exists_eq, and_true]

/-! ## Reads after a write -/

theorem State.memRead_withS_setIfInBounds (s : State) {a : Nat} (ha : a < 16) (v : Byte) (sp : Space) (a' : Nat) :
    (s.withS (s.S.setIfInBounds a v)).memRead sp a' =
      if (sp, a') = (.state, a) then some v else s.memRead sp a' := by
  cases sp with
  | state =>
    by_cases h : a' = a <;> simp [State.memRead_state, State.withS_S, byteAt_setIfInBounds, h, ha]
  | sched | sbox | invSbox | rcon => rfl

theorem State.memRead_writeSched (s : State) {a : Nat} (ha : a < 176) (v : Byte) (sp : Space) (a' : Nat) :
    (s.writeSched a v).memRead sp a' = if (sp, a') = (.sched, a) then some v else s.memRead sp a' := by
  cases sp with
  | sched =>
    by_cases h : a' = a <;> simp [State.memRead_sched, State.writeSched, State.withW_W, byteAt_setIfInBounds, h, ha]
  | state | sbox | invSbox | rcon => rfl

/-- What a read gives after a write: the written byte at the written cell, and what it gave before at every other. -/
theorem State.memRead_of_memWrite {s t : State} {sp : Space} {a : Nat} {v : Byte} (h : s.memWrite sp a v = some t)
    (sp' : Space) (a' : Nat) :
    t.memRead sp' a' = if (sp', a') = (sp, a) then some v else s.memRead sp' a' := by
  obtain ⟨ha, ⟨rfl, rfl⟩ | ⟨rfl, rfl⟩⟩ := State.memWrite_eq_some_iff.mp h
  · exact s.memRead_withS_setIfInBounds ha v sp' a'
  · exact s.memRead_writeSched ha v sp' a'

/-- Settles O55: where a read and a write answer, and the read-after-write rule at the written cell and at the others. -/
theorem indexSpacesHoldTheirCellsOnly : Obligations.IndexSpacesHoldTheirCellsOnly := by
  intro s sp a v
  refine ⟨s.memRead_isSome_iff sp a, s.memWrite_isSome_iff sp a v, fun t h => ⟨?_, fun sp' a' hne => ?_⟩⟩
  · rw [State.memRead_of_memWrite h, if_pos rfl]
  · rw [State.memRead_of_memWrite h, if_neg hne]

end Sys2Proof.Machine
end

section
/-! PROOFS. The key schedule the machine runs is the schedule per round key of R175 (44_key_schedule.md R171 to R175). -/

namespace Sys2Proof.Machine

/-! ## The reference schedule by index -/

theorem byteAt_scheduleOf (k : Block) {n r : Nat} (hn : n ≤ 10) (hr : r < 16) :
    byteAt (scheduleOf k) (16 * n + r) = byteAt (roundKeyOf k n) r := by
  rw [scheduleOf, byteAt_tabulate _ (by omega), show (16 * n + r) / 16 = n by omega, show (16 * n + r) % 16 = r by omega]

/-- Round key 0 is the key itself (R23, R176). -/
theorem byteAt_scheduleOf_key (k : Block) {j : Nat} (hj : j < 16) : byteAt (scheduleOf k) j = byteAt k j := by
  simpa [roundKeyOf] using byteAt_scheduleOf k (n := 0) (by omega) hj

/-- Round key `n` of the schedule is the one R175 defines. -/
theorem roundKey_scheduleOf (k : Block) {n : Nat} (hn : n ≤ 10) : roundKey (scheduleOf k) n = roundKeyOf k n :=
  byteVector_ext fun _ hr => by rw [byteAt_roundKey _ _ hr, byteAt_scheduleOf k hn hr]

theorem byteAt_roundKeyOf_succ (k : Block) (n : Nat) {r : Nat} (hr : r < 16) :
    byteAt (roundKeyOf k (n + 1)) r = nextRoundKeyByte (roundKeyOf k n) (n + 1) r :=
  byteAt_tabulate _ hr

/-- The first word of a round key: R175's first four lines are one rotated, substituted word with the constant. -/
theorem nextRoundKeyByte_first_word (p : Block) (n : Nat) {r : Nat} (hr : r < 4) :
    nextRoundKeyByte p n r =
      byteAt p r ^^^ (sbox (byteAt p (12 + (r + 1) % 4)) ^^^ if r = 0 then rcon n else 0) := by
  match r with
  | 0 => simp [nextRoundKeyByte, BitVec.xor_assoc]
  | 1 => simp [nextRoundKeyByte]
  | 2 => simp [nextRoundKeyByte]
  | 3 => simp [nextRoundKeyByte]
  | _ + 4 => omega

/-- The other words of a round key: the XOR with the word before. -/
theorem byteAt_roundKeyOf_later_word (k : Block) (n : Nat) {r : Nat} (hr : r + 4 < 16) :
    byteAt (roundKeyOf k (n + 1)) (r + 4) = byteAt (roundKeyOf k n) (r + 4) ^^^ byteAt (roundKeyOf k (n + 1)) r := by
  rw [byteAt_roundKeyOf_succ k n hr, byteAt_roundKeyOf_succ k n (by omega)]
  rfl

/-- The reference schedule obeys the machine's rule for a group of four bytes (R172, R173). -/
theorem byteAt_scheduleOf_group (key : Block) {n k : Nat} (hn : n < 40) (hk : k < 4) :
    byteAt (scheduleOf key) (16 + 4 * n + k) = byteAt (scheduleOf key) (4 * n + k) ^^^
      if n % 4 = 0 then
        sbox (byteAt (scheduleOf key) (12 + 4 * n + (k + 1) % 4)) ^^^ (if k = 0 then rcon (1 + (n + 3) / 4) else 0)
      else byteAt (scheduleOf key) (12 + 4 * n + k) := by
  have hq : n / 4 + 1 ≤ 10 := by omega
  have hrow : ∀ q r j, q ≤ 10 → r < 16 → j = 16 * q + r → byteAt (scheduleOf key) j = byteAt (roundKeyOf key q) r := by
    rintro q r _ h h' rfl
    exact byteAt_scheduleOf key h h'
  split
  next h =>
    rw [hrow (n / 4 + 1) k _ hq (by omega) (by omega), hrow (n / 4) k _ (by omega) (by omega) (by omega),
      hrow (n / 4) (12 + (k + 1) % 4) _ (by omega) (by omega) (by omega),
      byteAt_roundKeyOf_succ _ _ (by omega), nextRoundKeyByte_first_word _ _ hk,
      show 1 + (n + 3) / 4 = n / 4 + 1 by omega]
  next h =>
    rw [hrow (n / 4 + 1) (4 * (n % 4 - 1) + k + 4) _ hq (by omega) (by omega),
      hrow (n / 4) (4 * (n % 4 - 1) + k + 4) _ (by omega) (by omega) (by omega),
      hrow (n / 4 + 1) (4 * (n % 4 - 1) + k) _ hq (by omega) (by omega)]
    exact byteAt_roundKeyOf_later_word key _ (by omega)

/-! ## The machine's expansion -/

theorem groups_RCI (n : Nat) (g : KeyRegs) (hp : g.POS = 16) (hc : g.RCI = 1) :
    (KeyRegs.groups n g).RCI = 1 + (n + 3) / 4 := by
  induction n with
  | zero => exact hc
  | succ n ih =>
    simp only [groups_succ, KeyRegs.group, KeyRegs.nextRCI, groups_POS, hp, ih]
    split <;> omega

/-- The bytes of W after one group. -/
theorem byteAt_group_W (g : KeyRegs) (h16 : 16 ≤ g.POS) (h172 : g.POS ≤ 172) (i : Nat) :
    byteAt g.group.W i =
      if g.POS ≤ i ∧ i < g.POS + 4 then byteAt g.W (i - 16) ^^^ byteAt g.nextT (i - g.POS) else byteAt g.W i :=
  writeGroup_spec g.nextT g.POS 4 (by omega) g.W h16 (by omega) i

/-- After `n` groups the first `16 + 4n` bytes of W are those of the reference schedule, whatever W held before. -/
theorem byteAt_groups_start (key : Block) (g : KeyRegs) (n : Nat) (hn : n ≤ 40) (i : Nat) (hi : i < 16 + 4 * n) :
    byteAt (KeyRegs.groups n (KeyRegs.start key g)).W i = byteAt (scheduleOf key) i := by
  induction n generalizing i with
  | zero =>
    rw [byteAt_scheduleOf_key key (by omega)]
    exact (copyKey_spec key 16 (by omega) g.W i).trans (if_pos (by omega))
  | succ n ih =>
    have hpos : (KeyRegs.groups n (KeyRegs.start key g)).POS = 16 + 4 * n := groups_POS n _
    have hrci := groups_RCI n (KeyRegs.start key g) rfl rfl
    have hold := ih (by omega)
    rw [groups_succ, byteAt_group_W _ (by omega) (by omega), hpos]
    split
    next h =>
      obtain ⟨k, rfl⟩ : ∃ k, i = 16 + 4 * n + k := ⟨i - (16 + 4 * n), by omega⟩
      have hk : k < 4 := by omega
      have h4 : (k + 1) % 4 < 4 := Nat.mod_lt _ (by decide)
      have hb : (16 + 4 * n) % 16 = 0 ↔ n % 4 = 0 := by omega
      have hs : ∀ m, 16 + 4 * n - 4 + m = 12 + 4 * n + m := by omega
      rw [show 16 + 4 * n + k - 16 = 4 * n + k by omega, show 16 + 4 * n + k - (16 + 4 * n) = k by omega,
        byteAt_nextT _ hk, hpos, hrci, hs, hs, hold _ (by omega), hold _ (by omega), hold _ (by omega),
        byteAt_scheduleOf_group key (by omega) hk]
      simp only [hb]
    next h => exact hold i (by omega)

/-- The expansion leaves the whole reference schedule in W, and the counters at 176 and 11 (R31, R174). -/
theorem expandKey_spec (s : State) :
    s.expandKey.W = scheduleOf s.K ∧ s.expandKey.POS = 176 ∧ s.expandKey.RCI = 11 :=
  ⟨byteVector_ext (byteAt_groups_start s.K s.keyRegs 40 (by omega)), expand_POS _ _, groups_RCI 40 _ rfl rfl⟩

end Sys2Proof.Machine
end

section
/-! PROOFS. Commands: a command is the encoding of an instruction or carries a reserved opcode, and what each is answered
(30_encoding.md R84, R88; 10_state.md R39; 60_exceptions.md R203). -/

namespace Sys2Proof.Machine

/-! ## The two kinds of command -/

theorem assignedOps_iff_not_reservedOps : ∀ op : BitVec 4, op ∈ assignedOps ↔ op ∉ reservedOps := by decide

theorem decode_encode (i : Instr) : decode (encode i) = .ok i := by
  cases i <;> rfl

theorem encode_op_mem_assignedOps (i : Instr) : (encode i).op ∈ assignedOps := by
  cases i <;> simp [encode, assignedOps]

/-- A command with an assigned opcode is the encoding of an instruction (R84). -/
theorem exists_encode_eq {c : Command} (h : c.op ∈ assignedOps) : ∃ i, encode i = c := by
  obtain ⟨op, a, b⟩ := c
  simp only [assignedOps, List.mem_cons, List.not_mem_nil, or_false] at h
  rcases h with rfl | rfl | rfl | rfl | rfl | rfl | rfl | rfl | rfl | rfl
  · exact ⟨.enc a b, rfl⟩
  · exact ⟨.expandkey a b, rfl⟩
  · exact ⟨.subbytes a b, rfl⟩
  · exact ⟨.shiftrows a b, rfl⟩
  · exact ⟨.mixcolumns a b, rfl⟩
  · exact ⟨.addroundkey a b, rfl⟩
  · exact ⟨.dec a b, rfl⟩
  · exact ⟨.invsubbytes a b, rfl⟩
  · exact ⟨.invshiftrows a b, rfl⟩
  · exact ⟨.invmixcolumns a b, rfl⟩

/-- A reserved opcode does not decode (R88). -/
theorem decode_of_reserved {c : Command} (h : c.op ∈ reservedOps) : decode c = .error (.reservedOpcode c.op) := by
  obtain ⟨op, a, b⟩ := c
  simp only [reservedOps, List.mem_cons, List.not_mem_nil, or_false] at h
  rcases h with rfl | rfl | rfl | rfl | rfl | rfl <;> rfl

/-- The one case split on a command. -/
theorem encoded_or_reserved (c : Command) : (∃ i, encode i = c) ∨ c.op ∈ reservedOps := by
  by_cases h : c.op ∈ reservedOps
  · exact .inr h
  · exact .inl (exists_encode_eq ((assignedOps_iff_not_reservedOps c.op).mpr h))

/-! ## The response a command is due -/

/-- The seven opcodes of the single-transform commands (R84). -/
abbrev transformOps : List (BitVec 4) :=
  [Op.subbytes, Op.shiftrows, Op.mixcolumns, Op.addroundkey, Op.invsubbytes, Op.invshiftrows, Op.invmixcolumns]

theorem respond_of_enc {c : Command} (h : c.op = Op.enc) : respond c = .block (encryptBlock (bytes c.a) (bytes c.b)) := by
  obtain ⟨op, a, b⟩ := c
  subst h
  rfl

theorem respond_of_dec {c : Command} (h : c.op = Op.dec) : respond c = .block (decryptBlock (bytes c.a) (bytes c.b)) := by
  obtain ⟨op, a, b⟩ := c
  subst h
  rfl

theorem respond_of_expandkey {c : Command} (h : c.op = Op.expandkey) : respond c = .schedule (scheduleOf (bytes c.b)) := by
  obtain ⟨op, a, b⟩ := c
  subst h
  rfl

theorem respond_of_transform {c : Command} (h : c.op ∈ transformOps) : respond c = .block (xformOf c (bytes c.a)) := by
  obtain ⟨op, a, b⟩ := c
  simp only [List.mem_cons, List.not_mem_nil, or_false] at h
  rcases h with rfl | rfl | rfl | rfl | rfl | rfl | rfl <;> rfl

theorem respond_of_reserved {c : Command} (h : c.op ∈ reservedOps) : respond c = .illegalOp := by
  rw [respond, decode_of_reserved h]

/-- An assigned opcode is never answered with the error (R34, R204). -/
theorem respond_encode_ne_illegalOp (i : Instr) : respond (encode i) ≠ .illegalOp := by
  cases i <;> simp [respond, decode_encode]

theorem respond_eq_illegalOp_iff (c : Command) : respond c = .illegalOp ↔ c.op ∈ reservedOps := by
  obtain ⟨i, rfl⟩ | hr := encoded_or_reserved c
  · exact iff_of_false (respond_encode_ne_illegalOp i)
      ((assignedOps_iff_not_reservedOps _).mp (encode_op_mem_assignedOps i))
  · exact iff_of_true (respond_of_reserved hr) hr

/-- At a response, `err` is read off the response itself (R34, R35). -/
theorem err_eq_true_iff_response {s : State} (hp : s.PHASE = .done) : s.err = true ↔ s.response = some .illegalOp := by
  cases he : s.err with
  | true => simp [response_illegalOp hp he]
  | false =>
    by_cases hc : s.cap.op = Op.expandkey
    · simp [response_schedule hp he hc]
    · simp [response_block hp he hc]

end Sys2Proof.Machine
end

section
/-! PROOFS. The sequencer's rules: what acceptance and each row of the transition table do (10_state.md R28, R29), and that
every operation in progress runs down to its response (60_exceptions.md R251). -/

namespace Sys2Proof.Machine

/-! ## What the phases do -/

/-- What no phase writes after LOAD (R25): K, W and the schedule's counters, the captured command, and what
the host drives. -/
abbrev KeepsKeyAndCommand (s t : State) : Prop :=
  t.K = s.K ∧ t.W = s.W ∧ t.POS = s.POS ∧ t.RCI = s.RCI ∧ t.cap = s.cap ∧ t.host = s.host

theorem initPhase_spec (n : Nat) (s : State) :
    KeepsKeyAndCommand s (State.initPhase n s) ∧ (State.initPhase n s).PHASE = .init ∧ (State.initPhase n s).RND = n ∧
      (State.initPhase n s).S = addRoundKey s.S (roundKey s.W n) :=
  ⟨⟨rfl, rfl, rfl, rfl, rfl, rfl⟩, rfl, rfl, rfl⟩

theorem encRound_spec (n : Nat) (s : State) :
    KeepsKeyAndCommand s (State.encRound n s) ∧ (State.encRound n s).PHASE = .round ∧ (State.encRound n s).RND = n ∧
      (State.encRound n s).S = addRoundKey (mixColumns (shiftRows (subBytes s.S))) (roundKey s.W n) :=
  ⟨⟨rfl, rfl, rfl, rfl, rfl, rfl⟩, rfl, rfl, rfl⟩

theorem encFinal_spec (s : State) :
    KeepsKeyAndCommand s s.encFinal ∧ s.encFinal.PHASE = .final ∧ s.encFinal.RND = 10 ∧
      s.encFinal.S = addRoundKey (shiftRows (subBytes s.S)) (roundKey s.W 10) :=
  ⟨⟨rfl, rfl, rfl, rfl, rfl, rfl⟩, rfl, rfl, rfl⟩

theorem decRound_spec (n : Nat) (s : State) :
    KeepsKeyAndCommand s (State.decRound n s) ∧ (State.decRound n s).PHASE = .round ∧ (State.decRound n s).RND = n ∧
      (State.decRound n s).S = invMixColumns (addRoundKey (invSubBytes (invShiftRows s.S)) (roundKey s.W n)) :=
  ⟨⟨rfl, rfl, rfl, rfl, rfl, rfl⟩, rfl, rfl, rfl⟩

theorem decFinal_spec (s : State) :
    KeepsKeyAndCommand s s.decFinal ∧ s.decFinal.PHASE = .final ∧ s.decFinal.RND = 0 ∧
      s.decFinal.S = addRoundKey (invSubBytes (invShiftRows s.S)) (roundKey s.W 0) :=
  ⟨⟨rfl, rfl, rfl, rfl, rfl, rfl⟩, rfl, rfl, rfl⟩

/-- The response of ENC and DEC: RND is free within its range (R29), the rest is the emit on `r`. -/
theorem emitCipher_spec (s : State) :
    KeepsKeyAndCommand s s.emitCipher ∧ s.emitCipher.PHASE = .done ∧ s.emitCipher.RND ≤ 10 ∧
      s.emitCipher.err = false ∧ s.emitCipher.r = pack s.S :=
  ⟨⟨rfl, rfl, rfl, rfl, rfl, rfl⟩, rfl, Nat.le_of_lt_succ (Nat.mod_lt _ (by decide)), rfl, rfl⟩

theorem xformPhase_spec (f : Block → Block) (s : State) :
    KeepsKeyAndCommand s (State.xformPhase f s) ∧ (State.xformPhase f s).PHASE = .xform ∧
      (State.xformPhase f s).RND = s.RND ∧ (State.xformPhase f s).S = f s.S :=
  ⟨⟨rfl, rfl, rfl, rfl, rfl, rfl⟩, rfl, rfl, rfl⟩

/-! ## What acceptance and LOAD do -/

theorem keyExpanded_of_keeps {s t : State} (h : KeepsKeyAndCommand s t) (hs : s.KeyExpanded) : t.KeyExpanded := by
  obtain ⟨hK, hW, hPOS, hRCI, hcap, -⟩ := h
  simpa only [State.KeyExpanded, hK, hW, hPOS, hRCI, hcap] using hs

theorem keyExpanded_expandKey {s : State} (hs : s.K = bytes s.cap.b) : s.expandKey.KeyExpanded := by
  obtain ⟨-, hK, -, -, hcap, -⟩ := expandKey_frame s
  obtain ⟨hW, hPOS, hRCI⟩ := expandKey_spec s
  simp only [State.KeyExpanded, hK, hW, hPOS, hRCI, hcap, hs, and_self]

/-- `K <- bytes(b)`, the expansion, and LOAD: what ENC, DEC and EXPANDKEY have in common (R171, R181, R184). -/
theorem load_key_spec (s : State) :
    (s.loadK.expandKey.withPHASE .load).PHASE = .load ∧ (s.loadK.expandKey.withPHASE .load).cap = s.cap ∧
      (s.loadK.expandKey.withPHASE .load).host = s.host ∧ (s.loadK.expandKey.withPHASE .load).RND = s.RND ∧
      (s.loadK.expandKey.withPHASE .load).S = s.S ∧ (s.loadK.expandKey.withPHASE .load).KeyExpanded := by
  obtain ⟨hS, -, -, hRND, hcap, -, -, -, hhost, -⟩ := expandKey_frame s.loadK
  have hk : s.loadK.expandKey.KeyExpanded := keyExpanded_expandKey rfl
  generalize s.loadK.expandKey = t at *
  exact ⟨rfl, hcap, hhost, hRND, hS, hk⟩

theorem loadCipher_spec (c : Command) (s : State) :
    (State.loadCipher c s).PHASE = .load ∧ (State.loadCipher c s).cap = c ∧ (State.loadCipher c s).host = s.host ∧
      (State.loadCipher c s).RND = s.RND ∧ (State.loadCipher c s).S = bytes c.a ∧ (State.loadCipher c s).KeyExpanded :=
  load_key_spec (State.accept c s).loadS

theorem loadExpand_spec (c : Command) (s : State) :
    (State.loadExpand c s).PHASE = .load ∧ (State.loadExpand c s).cap = c ∧ (State.loadExpand c s).host = s.host ∧
      (State.loadExpand c s).RND = s.RND ∧ (State.loadExpand c s).S = s.S ∧ (State.loadExpand c s).KeyExpanded :=
  load_key_spec (State.accept c s)

theorem loadTransform_spec (c : Command) (s : State) :
    (State.loadTransform c s).PHASE = .load ∧ (State.loadTransform c s).cap = c ∧
      (State.loadTransform c s).host = s.host ∧ (State.loadTransform c s).RND = s.RND ∧
      (State.loadTransform c s).POS = s.POS ∧ (State.loadTransform c s).RCI = s.RCI ∧
      (State.loadTransform c s).S = bytes c.a :=
  ⟨rfl, rfl, rfl, rfl, rfl, rfl, rfl⟩

/-- The four things acceptance can be: the LOAD of the opcode's format, or the error response (R28, R203). -/
theorem begin_cases (c : Command) (s : State) :
    ((c.op = Op.enc ∨ c.op = Op.dec) ∧ State.begin c s = State.loadCipher c s) ∨
    (c.op = Op.expandkey ∧ State.begin c s = State.loadExpand c s) ∨
    (c.op ∈ transformOps ∧ State.begin c s = State.loadTransform c s) ∨
    (c.op ∈ reservedOps ∧ State.begin c s = State.raiseIllegalOp c s) := by
  obtain ⟨i, rfl⟩ | hr := encoded_or_reserved c
  · cases i with
    | enc a b => exact .inl ⟨.inl rfl, rfl⟩
    | dec a b => exact .inl ⟨.inr rfl, rfl⟩
    | expandkey a b => exact .inr (.inl ⟨rfl, rfl⟩)
    | _ a b => exact .inr (.inr (.inl ⟨by simp [encode], rfl⟩))
  · exact .inr (.inr (.inr ⟨hr, by rw [State.begin, decode_of_reserved hr]⟩))

/-- Acceptance captures the command and uses up nothing the host drives next (R57). -/
theorem begin_frame (c : Command) (s : State) : (State.begin c s).cap = c ∧ (State.begin c s).host = s.host := by
  obtain ⟨-, h⟩ | ⟨-, h⟩ | ⟨-, h⟩ | ⟨-, h⟩ := begin_cases c s <;> rw [h]
  · obtain ⟨-, hcap, hhost, -⟩ := loadCipher_spec c s
    exact ⟨hcap, hhost⟩
  · obtain ⟨-, hcap, hhost, -⟩ := loadExpand_spec c s
    exact ⟨hcap, hhost⟩
  · obtain ⟨-, hcap, hhost, -⟩ := loadTransform_spec c s
    exact ⟨hcap, hhost⟩
  · obtain ⟨-, -, hcap, -, hhost⟩ := raiseIllegalOp_spec c s
    exact ⟨hcap, hhost⟩

/-- Acceptance goes to LOAD for an assigned opcode and to DONE for a reserved one (R28). -/
theorem begin_PHASE (c : Command) (s : State) :
    (State.begin c s).PHASE = if c.op ∈ assignedOps then .load else .done := by
  have hassigned : ∀ op : BitVec 4, (op = Op.enc ∨ op = Op.dec ∨ op = Op.expandkey ∨ op ∈ transformOps) →
    op ∈ assignedOps := by decide
  obtain ⟨ho, h⟩ | ⟨ho, h⟩ | ⟨ho, h⟩ | ⟨hr, h⟩ := begin_cases c s <;> rw [h]
  · rw [if_pos (hassigned _ (ho.elim .inl (.inr ∘ .inl)))]
    rfl
  · rw [if_pos (hassigned _ (.inr (.inr (.inl ho))))]
    rfl
  · rw [if_pos (hassigned _ (.inr (.inr (.inr ho))))]
    rfl
  · rw [if_neg fun ha => (assignedOps_iff_not_reservedOps _).mp ha hr]
    rfl

/-! ## The rows of the transition table -/

theorem ne_of_mem_transformOps :
    ∀ op ∈ transformOps, op ≠ Op.enc ∧ op ≠ Op.dec ∧ op ≠ Op.expandkey := by decide

section Rows

variable {s : State}

theorem advance_idle (hp : s.PHASE = .idle) : s.advance = s := by
  simp only [State.advance, hp]

theorem advance_load (hp : s.PHASE = .load) :
    s.advance = if s.cap.op = Op.enc then State.initPhase 0 s
      else if s.cap.op = Op.dec then State.initPhase 10 s
      else if s.cap.op = Op.expandkey then s.emitSchedule
      else State.xformPhase (xformOf s.cap) s := by
  simp only [State.advance, hp]

theorem advance_load_enc (hp : s.PHASE = .load) (ho : s.cap.op = Op.enc) : s.advance = State.initPhase 0 s := by
  rw [advance_load hp, if_pos ho]

theorem advance_load_dec (hp : s.PHASE = .load) (ho : s.cap.op = Op.dec) : s.advance = State.initPhase 10 s := by
  rw [advance_load hp, ho, if_neg (by decide), if_pos rfl]

theorem advance_load_expandkey (hp : s.PHASE = .load) (ho : s.cap.op = Op.expandkey) : s.advance = s.emitSchedule := by
  rw [advance_load hp, ho, if_neg (by decide), if_neg (by decide), if_pos rfl]

theorem advance_load_transform (hp : s.PHASE = .load) (ho : s.RunsTransform) :
    s.advance = State.xformPhase (xformOf s.cap) s := by
  obtain ⟨he, hd, hk⟩ := ne_of_mem_transformOps _ ho
  rw [advance_load hp, if_neg he, if_neg hd, if_neg hk]

theorem advance_xform (hp : s.PHASE = .xform) : s.advance = s.emitBlock := by
  simp only [State.advance, hp]

theorem advance_init (hp : s.PHASE = .init) :
    s.advance = if opInv s.cap.op then State.decRound 9 s else State.encRound 1 s := by
  simp only [State.advance, hp]

theorem advance_round (hp : s.PHASE = .round) :
    s.advance = if opInv s.cap.op then if 1 < s.RND then State.decRound (s.RND - 1) s else s.decFinal
      else if s.RND < 9 then State.encRound (s.RND + 1) s else s.encFinal := by
  simp only [State.advance, hp]

theorem advance_init_enc (hp : s.PHASE = .init) (ho : s.cap.op = Op.enc) : s.advance = State.encRound 1 s := by
  rw [advance_init hp, ho]
  rfl

theorem advance_init_dec (hp : s.PHASE = .init) (ho : s.cap.op = Op.dec) : s.advance = State.decRound 9 s := by
  rw [advance_init hp, ho]
  rfl

theorem advance_round_enc (hp : s.PHASE = .round) (ho : s.cap.op = Op.enc) :
    s.advance = if s.RND < 9 then State.encRound (s.RND + 1) s else s.encFinal := by
  rw [advance_round hp, ho]
  rfl

theorem advance_round_dec (hp : s.PHASE = .round) (ho : s.cap.op = Op.dec) :
    s.advance = if 1 < s.RND then State.decRound (s.RND - 1) s else s.decFinal := by
  rw [advance_round hp, ho]
  rfl

theorem advance_final (hp : s.PHASE = .final) : s.advance = s.emitCipher := by
  simp only [State.advance, hp]

theorem advance_done (hp : s.PHASE = .done) : s.advance = s.leaveDone := by
  simp only [State.advance, hp]

end Rows

/-! ## What every transition keeps -/

/-- Short of the return to IDLE, a transition keeps the captured command and what the host drives (R26, R57). -/
theorem advance_frame (s : State) (hd : s.PHASE ≠ .done) : s.advance.cap = s.cap ∧ s.advance.host = s.host := by
  cases hp : s.PHASE with
  | idle =>
    rw [advance_idle hp]
    exact ⟨rfl, rfl⟩
  | load =>
    rw [advance_load hp]
    split_ifs <;> exact ⟨rfl, rfl⟩
  | xform =>
    rw [advance_xform hp]
    exact ⟨rfl, rfl⟩
  | init =>
    rw [advance_init hp]
    split_ifs <;> exact ⟨rfl, rfl⟩
  | round =>
    rw [advance_round hp]
    split_ifs <;> exact ⟨rfl, rfl⟩
  | final =>
    rw [advance_final hp]
    exact ⟨rfl, rfl⟩
  | done => exact absurd hp hd

/-- The transition table as a function of the opcode, RND and PHASE (R28, R29). -/
def nextPhase (op : BitVec 4) (rnd : Nat) : Phase → Phase
  | .idle => .idle
  | .load => if op = Op.enc then .init else if op = Op.dec then .init else if op = Op.expandkey then .done else .xform
  | .xform => .done
  | .init => .round
  | .round => if opInv op then if 1 < rnd then .round else .final else if rnd < 9 then .round else .final
  | .final => .done
  | .done => .idle

theorem advance_PHASE (s : State) : s.advance.PHASE = nextPhase s.cap.op s.RND s.PHASE := by
  cases hp : s.PHASE with
  | idle => rw [advance_idle hp, hp, nextPhase]
  | load =>
    rw [advance_load hp, nextPhase]
    split_ifs <;> rfl
  | xform => rw [advance_xform hp]; rfl
  | init =>
    rw [advance_init hp, nextPhase]
    split_ifs <;> rfl
  | round =>
    rw [advance_round hp, nextPhase]
    split_ifs <;> rfl
  | final => rw [advance_final hp]; rfl
  | done => rw [advance_done hp]; rfl

/-- RND in the first round (R29). -/
theorem advance_RND_of_init {s : State} (hp : s.PHASE = .init) :
    s.advance.RND = if opInv s.cap.op then 9 else 1 := by
  rw [advance_init hp]
  split_ifs <;> rfl

/-- RND in the next round: one down for DEC, one up for ENC (R29). -/
theorem advance_RND_of_round {s : State} (hp : s.PHASE = .round) (hn : s.advance.PHASE = .round) :
    s.advance.RND = if opInv s.cap.op then s.RND - 1 else s.RND + 1 := by
  rw [advance_PHASE, hp, nextPhase] at hn
  rw [advance_round hp]
  cases ho : opInv s.cap.op with
  | true =>
    have hlt : 1 < s.RND := by simpa [ho] using hn
    simp only [if_true, if_pos hlt]
    rfl
  | false =>
    have hlt : s.RND < 9 := by simpa [ho] using hn
    simp only [Bool.false_eq_true, if_false, if_pos hlt]
    rfl

/-- A round is entered from INIT or from a round only (R28). -/
theorem PHASE_of_advance_round {s : State} (hn : s.advance.PHASE = .round) : s.PHASE = .init ∨ s.PHASE = .round := by
  rw [advance_PHASE] at hn
  cases hp : s.PHASE with
  | init => exact .inl rfl
  | round => exact .inr rfl
  | load =>
    rw [hp, nextPhase] at hn
    split_ifs at hn
  | idle | xform | final | done => simp [hp, nextPhase] at hn

end Sys2Proof.Machine
end

section
/-! PROOFS. The invariant inside an operation: acceptance and every transition of the sequencer keep it (10_state.md R23,
R28 to R31; 44_key_schedule.md R175; 45_block_orchestration.md R182, R185). -/

namespace Sys2Proof.Machine

/-! ## The counters -/

theorem begin_countersInRange (c : Command) {s : State} (hs : s.CountersInRange) :
    (State.begin c s).CountersInRange := by
  have hkey : ∀ t : State, t.RND = s.RND → t.KeyExpanded → t.CountersInRange := by
    rintro t hRND ⟨-, -, hPOS, hRCI⟩
    simp only [State.CountersInRange] at hs ⊢
    omega
  obtain ⟨-, h⟩ | ⟨-, h⟩ | ⟨-, h⟩ | ⟨-, h⟩ := begin_cases c s <;> rw [h]
  · obtain ⟨-, -, -, hRND, -, hk⟩ := loadCipher_spec c s
    exact hkey _ hRND hk
  · obtain ⟨-, -, -, hRND, -, hk⟩ := loadExpand_spec c s
    exact hkey _ hRND hk
  · obtain ⟨-, -, -, hRND, hPOS, hRCI, -⟩ := loadTransform_spec c s
    simpa only [State.CountersInRange, hRND, hPOS, hRCI] using hs
  · obtain ⟨⟨-, -, -, -, hRND, hPOS, hRCI⟩, -⟩ := raiseIllegalOp_spec c s
    simpa only [State.CountersInRange, hRND, hPOS, hRCI] using hs

theorem countersInRange_of_keeps {s t : State} (h : KeepsKeyAndCommand s t) (hs : s.CountersInRange) (hn : t.RND ≤ 10) :
    t.CountersInRange := by
  obtain ⟨-, -, hPOS, hRCI, -, -⟩ := h
  obtain ⟨-, hp⟩ := hs
  exact ⟨hn, by rwa [hPOS, hRCI]⟩

theorem toIdle_countersInRange (s : State) : s.toIdle.CountersInRange := by
  obtain ⟨-, -, h⟩ := toIdle_spec s
  exact h

theorem advance_countersInRange {s : State} (hs : s.CountersInRange) : s.advance.CountersInRange := by
  have hn := hs.1
  cases hp : s.PHASE with
  | idle => rwa [advance_idle hp]
  | load =>
    rw [advance_load hp]
    split_ifs
    · exact countersInRange_of_keeps (initPhase_spec 0 s).1 hs (by decide : 0 ≤ 10)
    · exact countersInRange_of_keeps (initPhase_spec 10 s).1 hs (le_refl 10)
    · exact hs
    · exact hs
  | xform => rwa [advance_xform hp]
  | init =>
    rw [advance_init hp]
    split_ifs
    · exact countersInRange_of_keeps (decRound_spec 9 s).1 hs (by decide : 9 ≤ 10)
    · exact countersInRange_of_keeps (encRound_spec 1 s).1 hs (by decide : 1 ≤ 10)
  | round =>
    rw [advance_round hp]
    split_ifs with hinv hlt hlt
    · exact countersInRange_of_keeps (decRound_spec _ s).1 hs (by omega : s.RND - 1 ≤ 10)
    · exact countersInRange_of_keeps (decFinal_spec s).1 hs (by decide : 0 ≤ 10)
    · exact countersInRange_of_keeps (encRound_spec _ s).1 hs (by omega : s.RND + 1 ≤ 10)
    · exact countersInRange_of_keeps (encFinal_spec s).1 hs (le_refl 10)
  | final =>
    rw [advance_final hp]
    obtain ⟨hkeep, -, hRND, -⟩ := emitCipher_spec s
    exact countersInRange_of_keeps hkeep hs hRND
  | done =>
    rw [advance_done hp]
    exact toIdle_countersInRange s

/-! ## Legal states, phase by phase -/

section Legal

variable {s : State}

theorem legal_idle (hp : s.PHASE = .idle) : s.Legal := by
  simp only [State.Legal, hp]

theorem legal_load_iff (hp : s.PHASE = .load) : s.Legal ↔ s.Loaded := by
  simp only [State.Legal, hp]

theorem legal_xform_iff (hp : s.PHASE = .xform) :
    s.Legal ↔ s.RunsTransform ∧ Response.block s.S = respond s.cap := by
  simp only [State.Legal, hp]

theorem legal_init_iff (hp : s.PHASE = .init) :
    s.Legal ↔ s.RunsCipher ∧ s.KeyExpanded ∧ s.RND = (if s.cap.op = Op.enc then 0 else 10) ∧ s.RoundDone := by
  simp only [State.Legal, hp]

theorem legal_round_iff (hp : s.PHASE = .round) :
    s.Legal ↔ s.RunsCipher ∧ s.KeyExpanded ∧ 1 ≤ s.RND ∧ s.RND ≤ 9 ∧ s.RoundDone := by
  simp only [State.Legal, hp]

theorem legal_final_iff (hp : s.PHASE = .final) :
    s.Legal ↔ s.RunsCipher ∧ s.KeyExpanded ∧ s.RND = (if s.cap.op = Op.enc then 10 else 0) ∧
      Response.block s.S = respond s.cap := by
  simp only [State.Legal, hp]

theorem legal_done_iff (hp : s.PHASE = .done) : s.Legal ↔ s.response = some (respond s.cap) := by
  simp only [State.Legal, hp]

end Legal

/-! ## The rounds of ENC and DEC -/

/-- ENC after `n` of its rounds, `n` in 0..9: RND is `n` and S is `Xn` (R29, R182). -/
structure State.EncDone (n : Nat) (s : State) : Prop where
  phase : s.PHASE = if n = 0 then .init else .round
  op : s.cap.op = Op.enc
  key : s.KeyExpanded
  rnd : s.RND = n
  block : s.S = encState (bytes s.cap.a) (bytes s.cap.b) n

/-- DEC after `n` of its rounds, `n` in 0..9: RND is `10 - n` and S is `Y(10-n)` (R29, R185). -/
structure State.DecDone (n : Nat) (s : State) : Prop where
  phase : s.PHASE = if n = 0 then .init else .round
  op : s.cap.op = Op.dec
  key : s.KeyExpanded
  rnd : s.RND = 10 - n
  block : s.S = decState (bytes s.cap.a) (bytes s.cap.b) n

theorem roundKey_of_keyExpanded {s : State} (h : s.KeyExpanded) {n : Nat} (hn : n ≤ 10) :
    roundKey s.W n = roundKeyOf (bytes s.cap.b) n := by
  obtain ⟨hK, hW, -, -⟩ := h
  rw [hW, hK, roundKey_scheduleOf _ hn]

theorem encDone_initPhase {s : State} (ho : s.cap.op = Op.enc) (hS : s.S = bytes s.cap.a) (hk : s.KeyExpanded) :
    (State.initPhase 0 s).EncDone 0 where
  phase := rfl
  op := ho
  key := keyExpanded_of_keeps (initPhase_spec 0 s).1 hk
  rnd := rfl
  block := by
    obtain ⟨⟨-, -, -, -, hcap, -⟩, -, -, hblock⟩ := initPhase_spec 0 s
    rw [hblock, hcap, hS, roundKey_of_keyExpanded hk (by omega), encState]

theorem decDone_initPhase {s : State} (ho : s.cap.op = Op.dec) (hS : s.S = bytes s.cap.a) (hk : s.KeyExpanded) :
    (State.initPhase 10 s).DecDone 0 where
  phase := rfl
  op := ho
  key := keyExpanded_of_keeps (initPhase_spec 10 s).1 hk
  rnd := rfl
  block := by
    obtain ⟨⟨-, -, -, -, hcap, -⟩, -, -, hblock⟩ := initPhase_spec 10 s
    rw [hblock, hcap, hS, roundKey_of_keyExpanded hk (by omega), decState]

theorem State.EncDone.encRound {n : Nat} {s : State} (h : s.EncDone n) (hn : n < 10) :
    (State.encRound (n + 1) s).EncDone (n + 1) where
  phase := rfl
  op := h.op
  key := keyExpanded_of_keeps (encRound_spec (n + 1) s).1 h.key
  rnd := rfl
  block := by
    obtain ⟨⟨-, -, -, -, hcap, -⟩, -, -, hblock⟩ := encRound_spec (n + 1) s
    rw [hblock, hcap, h.block, roundKey_of_keyExpanded h.key (by omega), encState]

theorem State.DecDone.decRound {n : Nat} {s : State} (h : s.DecDone n) :
    (State.decRound (9 - n) s).DecDone (n + 1) where
  phase := rfl
  op := h.op
  key := keyExpanded_of_keeps (decRound_spec (9 - n) s).1 h.key
  rnd := by
    obtain ⟨-, -, hRND, -⟩ := decRound_spec (9 - n) s
    omega
  block := by
    obtain ⟨⟨-, -, -, -, hcap, -⟩, -, -, hblock⟩ := decRound_spec (9 - n) s
    rw [hblock, hcap, h.block, roundKey_of_keyExpanded h.key (by omega), decState]

/-- FINAL of ENC leaves in S what the command is answered (R182). -/
theorem State.EncDone.encFinal_legal {s : State} (h : s.EncDone 9) : s.encFinal.Legal := by
  obtain ⟨hkeep, hp, hRND, hblock⟩ := encFinal_spec s
  have ⟨_, _, _, _, hcap, _⟩ := hkeep
  refine (legal_final_iff hp).mpr ⟨.inl (hcap ▸ h.op), keyExpanded_of_keeps hkeep h.key, ?_, ?_⟩
  · rw [hRND, hcap, h.op, if_pos rfl]
  · rw [hblock, hcap, respond_of_enc h.op, encryptBlock, h.block, roundKey_of_keyExpanded h.key (le_refl 10)]

/-- FINAL of DEC leaves in S what the command is answered (R185). -/
theorem State.DecDone.decFinal_legal {s : State} (h : s.DecDone 9) : s.decFinal.Legal := by
  obtain ⟨hkeep, hp, hRND, hblock⟩ := decFinal_spec s
  have ⟨_, _, _, _, hcap, _⟩ := hkeep
  refine (legal_final_iff hp).mpr ⟨.inr (hcap ▸ h.op), keyExpanded_of_keeps hkeep h.key, ?_, ?_⟩
  · rw [hRND, hcap, h.op, if_neg (by decide)]
  · rw [hblock, hcap, respond_of_dec h.op, decryptBlock, h.block, roundKey_of_keyExpanded h.key (by omega)]

/-- The transition after ENC's `n`-th round (R28). -/
theorem State.EncDone.advance_eq {n : Nat} {s : State} (h : s.EncDone n) :
    s.advance = if n < 9 then State.encRound (n + 1) s else s.encFinal := by
  have hp := h.phase
  split at hp
  next h0 =>
    subst h0
    exact advance_init_enc hp h.op
  next h0 => rw [advance_round_enc hp h.op, h.rnd]

/-- The transition after DEC's `n`-th round (R28). -/
theorem State.DecDone.advance_eq {n : Nat} {s : State} (h : s.DecDone n) :
    s.advance = if n < 9 then State.decRound (9 - n) s else s.decFinal := by
  have hp := h.phase
  split at hp
  next h0 =>
    subst h0
    exact advance_init_dec hp h.op
  next h0 =>
    have hlt : 1 < 10 - n ↔ n < 9 := by omega
    simp only [advance_round_dec hp h.op, h.rnd, hlt, show 10 - n - 1 = 9 - n by omega]

theorem State.EncDone.legal {n : Nat} {s : State} (h : s.EncDone n) (hn : n ≤ 9) : s.Legal := by
  have hdone : s.RoundDone := by rw [State.RoundDone, if_pos h.op, h.rnd, h.block]
  have hp := h.phase
  have hr := h.rnd
  split at hp
  next h0 => exact (legal_init_iff hp).mpr ⟨.inl h.op, h.key, by rw [if_pos h.op, hr, h0], hdone⟩
  next h0 => exact (legal_round_iff hp).mpr ⟨.inl h.op, h.key, by omega, by omega, hdone⟩

theorem State.DecDone.legal {n : Nat} {s : State} (h : s.DecDone n) (hn : n ≤ 9) : s.Legal := by
  have hne : s.cap.op ≠ Op.enc := by rw [h.op]; decide
  have hr := h.rnd
  have hdone : s.RoundDone := by
    rw [State.RoundDone, if_neg hne, hr, show 10 - (10 - n) = n by omega, h.block]
  have hp := h.phase
  split at hp
  next h0 => exact (legal_init_iff hp).mpr ⟨.inr h.op, h.key, by rw [if_neg hne, hr, h0], hdone⟩
  next h0 => exact (legal_round_iff hp).mpr ⟨.inr h.op, h.key, by omega, by omega, hdone⟩

/-- A legal state in INIT or ROUND is ENC or DEC after some number of rounds. -/
theorem encDone_or_decDone {s : State} (hp : s.PHASE = .init ∨ s.PHASE = .round) (hl : s.Legal) :
    ∃ n, n ≤ 9 ∧ (s.EncDone n ∨ s.DecDone n) := by
  have hne : Op.dec ≠ Op.enc := by decide
  rcases hp with hp | hp
  · obtain ⟨ho, hk, hr, hd⟩ := (legal_init_iff hp).mp hl
    refine ⟨0, by omega, ?_⟩
    rcases ho with ho | ho
    · rw [if_pos ho] at hr
      rw [State.RoundDone, if_pos ho, hr] at hd
      exact .inl ⟨hp, ho, hk, hr, hd⟩
    · rw [ho, if_neg hne] at hr
      rw [State.RoundDone, ho, if_neg hne, hr] at hd
      exact .inr ⟨hp, ho, hk, hr, hd⟩
  · obtain ⟨ho, hk, h1, h9, hd⟩ := (legal_round_iff hp).mp hl
    rcases ho with ho | ho
    · rw [State.RoundDone, if_pos ho] at hd
      exact ⟨s.RND, h9, .inl ⟨by rw [hp, if_neg (by omega)], ho, hk, rfl, hd⟩⟩
    · rw [State.RoundDone, ho, if_neg hne] at hd
      exact ⟨10 - s.RND, by omega, .inr ⟨by rw [hp, if_neg (by omega)], ho, hk, by omega, hd⟩⟩

theorem State.EncDone.advance_legal {n : Nat} {s : State} (h : s.EncDone n) (hn : n ≤ 9) : s.advance.Legal := by
  rw [h.advance_eq]
  split
  next hlt => exact (h.encRound (by omega)).legal (by omega)
  next hge =>
    obtain rfl : n = 9 := by omega
    exact h.encFinal_legal

theorem State.DecDone.advance_legal {n : Nat} {s : State} (h : s.DecDone n) (hn : n ≤ 9) : s.advance.Legal := by
  rw [h.advance_eq]
  split
  next hlt => exact h.decRound.legal (by omega)
  next hge =>
    obtain rfl : n = 9 := by omega
    exact h.decFinal_legal

/-! ## Acceptance and the responses -/

theorem begin_legal (c : Command) (s : State) : (State.begin c s).Legal := by
  obtain ⟨ho, h⟩ | ⟨ho, h⟩ | ⟨ho, h⟩ | ⟨hr, h⟩ := begin_cases c s <;> rw [h]
  · obtain ⟨hp, hcap, -, -, hS, hk⟩ := loadCipher_spec c s
    rw [legal_load_iff hp, State.Loaded, State.RunsCipher, hcap]
    exact .inl ⟨ho, hS, hk⟩
  · obtain ⟨hp, hcap, -, -, -, hk⟩ := loadExpand_spec c s
    rw [legal_load_iff hp, State.Loaded, hcap]
    exact .inr (.inl ⟨ho, hk⟩)
  · obtain ⟨hp, hcap, -, -, -, -, hS⟩ := loadTransform_spec c s
    exact (legal_load_iff hp).mpr (.inr (.inr ⟨ho, hS⟩))
  · obtain ⟨-, hp, hcap, herr, -⟩ := raiseIllegalOp_spec c s
    rw [legal_done_iff hp, response_illegalOp hp herr, hcap, respond_of_reserved hr]

theorem emitBlock_legal {s : State} (ho : s.cap.op ≠ Op.expandkey) (hb : Response.block s.S = respond s.cap) :
    s.emitBlock.Legal := by
  obtain ⟨-, hp, hcap, herr, hr, -⟩ := emitBlock_spec s
  rw [legal_done_iff hp, response_block hp herr (hcap ▸ ho), hr, bytes_pack, hb, hcap]

theorem emitSchedule_legal {s : State} (ho : s.cap.op = Op.expandkey) (hk : s.KeyExpanded) : s.emitSchedule.Legal := by
  obtain ⟨-, hp, hcap, herr, hsched, -⟩ := emitSchedule_spec s
  obtain ⟨hK, hW, -⟩ := hk
  rw [legal_done_iff hp, response_schedule hp herr (hcap ▸ ho), hsched, schedBytes_packSched, hcap,
    respond_of_expandkey ho, hW, hK]

theorem ne_expandkey_of_runsCipher {s : State} (h : s.RunsCipher) : s.cap.op ≠ Op.expandkey := by
  rcases h with h | h <;> rw [h] <;> decide

theorem advance_legal_of_load {s : State} (hp : s.PHASE = .load) (hl : s.Legal) : s.advance.Legal := by
  rcases (legal_load_iff hp).mp hl with ⟨ho | ho, hS, hk⟩ | ⟨ho, hk⟩ | ⟨ho, hS⟩
  · rw [advance_load_enc hp ho]
    exact (encDone_initPhase ho hS hk).legal (by omega)
  · rw [advance_load_dec hp ho]
    exact (decDone_initPhase ho hS hk).legal (by omega)
  · rw [advance_load_expandkey hp ho]
    exact emitSchedule_legal ho hk
  · rw [advance_load_transform hp ho]
    obtain ⟨⟨-, -, -, -, hcap, -⟩, hp', -, hS'⟩ := xformPhase_spec (xformOf s.cap) s
    refine (legal_xform_iff hp').mpr ⟨ho, ?_⟩
    rw [hS', hcap, respond_of_transform ho, hS]

/-- Every transition leaves what the captured command alone fixes (R23, R28, R39). -/
theorem advance_legal {s : State} (hl : s.Legal) : s.advance.Legal := by
  cases hp : s.PHASE with
  | idle => rwa [advance_idle hp]
  | load => exact advance_legal_of_load hp hl
  | xform =>
    rw [advance_xform hp]
    obtain ⟨ho, hb⟩ := (legal_xform_iff hp).mp hl
    obtain ⟨-, -, hk⟩ := ne_of_mem_transformOps _ ho
    exact emitBlock_legal hk hb
  | init =>
    obtain ⟨n, hn, h | h⟩ := encDone_or_decDone (.inl hp) hl
    · exact h.advance_legal hn
    · exact h.advance_legal hn
  | round =>
    obtain ⟨n, hn, h | h⟩ := encDone_or_decDone (.inr hp) hl
    · exact h.advance_legal hn
    · exact h.advance_legal hn
  | final =>
    rw [advance_final hp]
    obtain ⟨ho, -, -, hb⟩ := (legal_final_iff hp).mp hl
    exact emitBlock_legal (s := s.freeRND) (ne_expandkey_of_runsCipher ho) hb
  | done =>
    rw [advance_done hp]
    exact legal_idle (toIdle_spec s).1

theorem begin_inv (c : Command) {s : State} (hs : s.CountersInRange) : (State.begin c s).Inv :=
  ⟨begin_countersInRange c hs, begin_legal c s⟩

theorem advance_inv {s : State} (hs : s.Inv) : s.advance.Inv :=
  ⟨advance_countersInRange hs.1, advance_legal hs.2⟩

/-- Settles O18: the counters and the phase-by-phase contents of the registers are kept separately. -/
theorem sequencerKeepsTheInvariant : Obligations.SequencerKeepsTheInvariant :=
  ⟨fun _ c hs => begin_inv c hs, fun _ hs => advance_inv hs⟩

end Sys2Proof.Machine
end

section
/-! PROOFS. The run of an operation: the meanings are the sequencer's runs, and what RND and the phases go through on the
way (10_state.md R28, R29; 45_block_orchestration.md R181, R184). -/

namespace Sys2Proof.Machine

/-! ## ENC and DEC, round by round -/

theorem KeepsKeyAndCommand.trans {s t u : State} (h : KeepsKeyAndCommand s t) (h' : KeepsKeyAndCommand t u) :
    KeepsKeyAndCommand s u := by
  obtain ⟨hK, hW, hPOS, hRCI, hcap, hhost⟩ := h
  obtain ⟨hK', hW', hPOS', hRCI', hcap', hhost'⟩ := h'
  exact ⟨hK'.trans hK, hW'.trans hW, hPOS'.trans hPOS, hRCI'.trans hRCI, hcap'.trans hcap, hhost'.trans hhost⟩

/-- `n` transitions from ENC's INIT are `n` rounds, RND going up (R29, R181). -/
theorem State.EncDone.iterate {s : State} (h : s.EncDone 0) (n : Nat) (hn : n ≤ 9) :
    State.advance^[n] s = State.encRounds n s ∧ (State.advance^[n] s).EncDone n ∧
      KeepsKeyAndCommand s (State.advance^[n] s) := by
  induction n with
  | zero => exact ⟨rfl, h, rfl, rfl, rfl, rfl, rfl, rfl⟩
  | succ n ih =>
    obtain ⟨heq, hdone, hkeep⟩ := ih (by omega)
    rw [Function.iterate_succ_apply', hdone.advance_eq, if_pos (by omega)]
    exact ⟨by rw [heq, State.encRounds], hdone.encRound (by omega), hkeep.trans (encRound_spec _ _).1⟩

/-- `n` transitions from DEC's INIT are `n` rounds done (R29, R184). -/
theorem State.DecDone.iterate {s : State} (h : s.DecDone 0) (n : Nat) (hn : n ≤ 9) :
    (State.advance^[n] s).DecDone n ∧ KeepsKeyAndCommand s (State.advance^[n] s) := by
  induction n with
  | zero => exact ⟨h, rfl, rfl, rfl, rfl, rfl, rfl⟩
  | succ n ih =>
    obtain ⟨hdone, hkeep⟩ := ih (by omega)
    rw [Function.iterate_succ_apply', hdone.advance_eq, if_pos (by omega)]
    exact ⟨hdone.decRound, hkeep.trans (decRound_spec _ _).1⟩

/-- DEC's last `n` rounds, RND going down from `n` (R184). -/
theorem State.DecDone.iterate_eq_decRounds (n : Nat) (hn : n ≤ 9) (s : State) (h : s.DecDone (9 - n)) :
    State.advance^[n] s = State.decRounds n s := by
  induction n generalizing s with
  | zero => rfl
  | succ n ih =>
    have hround := h.decRound
    rw [show 9 - (9 - (n + 1)) = n + 1 by omega, show 9 - (n + 1) + 1 = 9 - n by omega] at hround
    rw [Function.iterate_succ_apply, h.advance_eq, if_pos (by omega), show 9 - (9 - (n + 1)) = n + 1 by omega,
      ih (by omega) _ hround, State.decRounds]

theorem begin_of_cipher {c : Command} (ho : c.op = Op.enc ∨ c.op = Op.dec) (s : State) :
    State.begin c s = State.loadCipher c s := by
  obtain ⟨op, a, b⟩ := c
  rcases ho with rfl | rfl <;> rfl

/-- From acceptance to INIT of ENC. -/
theorem encDone_of_begin {c : Command} (ho : c.op = Op.enc) (s : State) :
    (State.begin c s).advance = State.initPhase 0 (State.loadCipher c s) ∧
      (State.initPhase 0 (State.loadCipher c s)).EncDone 0 := by
  obtain ⟨hp, hcap, -, -, hS, hk⟩ := loadCipher_spec c s
  rw [begin_of_cipher (.inl ho)]
  exact ⟨advance_load_enc hp (by rw [hcap, ho]), encDone_initPhase (by rw [hcap, ho]) (by rw [hS, hcap]) hk⟩

/-- From acceptance to INIT of DEC. -/
theorem decDone_of_begin {c : Command} (ho : c.op = Op.dec) (s : State) :
    (State.begin c s).advance = State.initPhase 10 (State.loadCipher c s) ∧
      (State.initPhase 10 (State.loadCipher c s)).DecDone 0 := by
  obtain ⟨hp, hcap, -, -, hS, hk⟩ := loadCipher_spec c s
  rw [begin_of_cipher (.inr ho)]
  exact ⟨advance_load_dec hp (by rw [hcap, ho]), decDone_initPhase (by rw [hcap, ho]) (by rw [hS, hcap]) hk⟩

/-- INIT has taken neither the captured command nor the host's list from what acceptance made of them. -/
theorem initPhase_loadCipher_frame (n : Nat) (c : Command) (s : State) :
    (State.initPhase n (State.loadCipher c s)).cap = c ∧ (State.initPhase n (State.loadCipher c s)).host = s.host := by
  obtain ⟨-, hcap, hhost, -⟩ := loadCipher_spec c s
  obtain ⟨⟨-, -, -, -, hcap', hhost'⟩, -⟩ := initPhase_spec n (State.loadCipher c s)
  exact ⟨hcap'.trans hcap, hhost'.trans hhost⟩

/-- ENC `n + 1` transitions after acceptance (R29). -/
theorem enc_run {c : Command} (ho : c.op = Op.enc) (s : State) {n : Nat} (hn : n ≤ 9) :
    (State.advance^[n + 1] (State.begin c s)).EncDone n ∧ (State.advance^[n + 1] (State.begin c s)).cap = c ∧
      (State.advance^[n + 1] (State.begin c s)).host = s.host := by
  obtain ⟨hfirst, hdone⟩ := encDone_of_begin ho s
  obtain ⟨hcap, hhost⟩ := initPhase_loadCipher_frame 0 c s
  obtain ⟨-, hdone', -, -, -, -, hcap', hhost'⟩ := hdone.iterate n hn
  rw [Function.iterate_succ_apply, hfirst]
  exact ⟨hdone', hcap'.trans hcap, hhost'.trans hhost⟩

/-- DEC `n + 1` transitions after acceptance (R29). -/
theorem dec_run {c : Command} (ho : c.op = Op.dec) (s : State) {n : Nat} (hn : n ≤ 9) :
    (State.advance^[n + 1] (State.begin c s)).DecDone n ∧ (State.advance^[n + 1] (State.begin c s)).cap = c ∧
      (State.advance^[n + 1] (State.begin c s)).host = s.host := by
  obtain ⟨hfirst, hdone⟩ := decDone_of_begin ho s
  obtain ⟨hcap, hhost⟩ := initPhase_loadCipher_frame 10 c s
  obtain ⟨hdone', -, -, -, -, hcap', hhost'⟩ := hdone.iterate n hn
  rw [Function.iterate_succ_apply, hfirst]
  exact ⟨hdone', hcap'.trans hcap, hhost'.trans hhost⟩

theorem enc_run_final {c : Command} (ho : c.op = Op.enc) (s : State) :
    State.advance^[11] (State.begin c s) = (State.advance^[10] (State.begin c s)).encFinal := by
  rw [Function.iterate_succ_apply', (enc_run ho s (le_refl 9)).1.advance_eq, if_neg (by decide)]

theorem dec_run_final {c : Command} (ho : c.op = Op.dec) (s : State) :
    State.advance^[11] (State.begin c s) = (State.advance^[10] (State.begin c s)).decFinal := by
  rw [Function.iterate_succ_apply', (dec_run ho s (le_refl 9)).1.advance_eq, if_neg (by decide)]

/-- No number of transitions after acceptance leaves the legal states. -/
theorem iterate_advance_legal (c : Command) (s : State) (n : Nat) : (State.advance^[n] (State.begin c s)).Legal :=
  Function.Iterate.rec State.Legal (begin_legal c s) (fun _ => advance_legal) n

/-- ENC and DEC are in FINAL eleven transitions after acceptance (R28). -/
theorem cipher_final {c : Command} (ho : c.op = Op.enc ∨ c.op = Op.dec) (s : State) :
    (State.advance^[11] (State.begin c s)).PHASE = .final ∧ (State.advance^[11] (State.begin c s)).cap = c ∧
      (State.advance^[11] (State.begin c s)).host = s.host := by
  rcases ho with ho | ho
  · obtain ⟨-, hcap, hhost⟩ := enc_run ho s (le_refl 9)
    obtain ⟨⟨-, -, -, -, hcap', hhost'⟩, hp, -⟩ := encFinal_spec (State.advance^[10] (State.begin c s))
    rw [enc_run_final ho]
    exact ⟨hp, hcap'.trans hcap, hhost'.trans hhost⟩
  · obtain ⟨-, hcap, hhost⟩ := dec_run ho s (le_refl 9)
    obtain ⟨⟨-, -, -, -, hcap', hhost'⟩, hp, -⟩ := decFinal_spec (State.advance^[10] (State.begin c s))
    rw [dec_run_final ho]
    exact ⟨hp, hcap'.trans hcap, hhost'.trans hhost⟩

/-! ## The meanings are the sequencer's runs -/

theorem execEnc_eq_run (a b : PortWord) (s : State) :
    execEnc a b s = .next (State.advance^[12] (State.begin ⟨Op.enc, a, b⟩ s)) := by
  obtain ⟨hfirst, hdone⟩ := encDone_of_begin (c := ⟨Op.enc, a, b⟩) rfl s
  obtain ⟨heq, -⟩ := hdone.iterate 9 (le_refl 9)
  obtain ⟨hp, -⟩ := cipher_final (c := ⟨Op.enc, a, b⟩) (.inl rfl) s
  rw [Function.iterate_succ_apply', advance_final hp, enc_run_final rfl, Function.iterate_succ_apply, hfirst, heq,
    execEnc]

theorem execDec_eq_run (a b : PortWord) (s : State) :
    execDec a b s = .next (State.advance^[12] (State.begin ⟨Op.dec, a, b⟩ s)) := by
  obtain ⟨hfirst, hdone⟩ := decDone_of_begin (c := ⟨Op.dec, a, b⟩) rfl s
  have heq := State.DecDone.iterate_eq_decRounds 9 (le_refl 9) _ hdone
  obtain ⟨hp, -⟩ := cipher_final (c := ⟨Op.dec, a, b⟩) (.inr rfl) s
  rw [Function.iterate_succ_apply', advance_final hp, dec_run_final rfl, Function.iterate_succ_apply, hfirst, heq,
    execDec]

theorem execExpandkey_eq_run (a b : PortWord) (s : State) :
    execExpandkey a b s = .next (State.begin ⟨Op.expandkey, a, b⟩ s).advance := by
  obtain ⟨hp, hcap, -⟩ := loadExpand_spec ⟨Op.expandkey, a, b⟩ s
  have hb : State.begin ⟨Op.expandkey, a, b⟩ s = State.loadExpand ⟨Op.expandkey, a, b⟩ s := rfl
  rw [hb, advance_load_expandkey hp (by rw [hcap]), execExpandkey]

theorem begin_of_transform {c : Command} (ho : c.op ∈ transformOps) (s : State) :
    State.begin c s = State.loadTransform c s := by
  obtain ⟨op, a, b⟩ := c
  simp only [List.mem_cons, List.not_mem_nil, or_false] at ho
  rcases ho with rfl | rfl | rfl | rfl | rfl | rfl | rfl <;> rfl

theorem transformCommand_eq_run {c : Command} (ho : c.op ∈ transformOps) (s : State) :
    State.transformCommand c (xformOf c) s = State.advance^[2] (State.begin c s) := by
  obtain ⟨hp, hcap, -⟩ := loadTransform_spec c s
  have hx := advance_load_transform hp (by rwa [State.RunsTransform, hcap])
  obtain ⟨-, hp', -⟩ := xformPhase_spec (xformOf c) (State.loadTransform c s)
  rw [hcap] at hx
  rw [begin_of_transform ho, Function.iterate_succ_apply, Function.iterate_one, hx, advance_xform hp',
    State.transformCommand]

/-- Settles O21: each format's meaning is the run of its phases. -/
theorem execIsTheSequencersRun : Obligations.ExecIsTheSequencersRun := by
  intro i s
  cases i with
  | enc a b => exact execEnc_eq_run a b s
  | dec a b => exact execDec_eq_run a b s
  | expandkey a b => exact execExpandkey_eq_run a b s
  | _ a b => exact congrArg Host.Outcome.next (transformCommand_eq_run (by simp) s)

/-- Settles O23: before FINAL by the rounds done, in FINAL by what the command is answered. -/
theorem roundRegisterCountsTheRoundKeys : Obligations.RoundRegisterCountsTheRoundKeys := by
  intro s a b n hn
  obtain hlt | rfl : n ≤ 9 ∨ n = 10 := by omega
  · obtain ⟨⟨hp, -, -, hr, hS⟩, hcap, -⟩ := enc_run (c := ⟨Op.enc, a, b⟩) rfl s hlt
    obtain ⟨⟨hp', -, -, hr', hS'⟩, hcap', -⟩ := dec_run (c := ⟨Op.dec, a, b⟩) rfl s hlt
    have hne : n ≠ 10 := by omega
    rw [hcap] at hS
    rw [hcap'] at hS'
    simp only [if_neg hne]
    exact ⟨hr, hr', hp, hp', hS, hS'⟩
  · obtain ⟨hp, hcap, -⟩ := cipher_final (c := ⟨Op.enc, a, b⟩) (.inl rfl) s
    obtain ⟨hp', hcap', -⟩ := cipher_final (c := ⟨Op.dec, a, b⟩) (.inr rfl) s
    obtain ⟨-, -, hr, hS⟩ := (legal_final_iff hp).mp (iterate_advance_legal _ s 11)
    obtain ⟨-, -, hr', hS'⟩ := (legal_final_iff hp').mp (iterate_advance_legal _ s 11)
    rw [hcap] at hr hS
    rw [hcap'] at hr' hS'
    exact ⟨hr, hr', hp, hp', Response.block.inj hS, Response.block.inj hS'⟩

/-! ## What a command leaves at its response -/

/-- What a command has reached in `t`, from acceptance in `s`: DONE, with the command captured and the host's list not
touched (R33). -/
abbrev EndsAtResponse (c : Command) (s t : State) : Prop := t.PHASE = .done ∧ t.cap = c ∧ t.host = s.host

theorem cipher_ends {c : Command} (ho : c.op = Op.enc ∨ c.op = Op.dec) (s : State) :
    EndsAtResponse c s (State.advance^[12] (State.begin c s)) := by
  obtain ⟨hp, hcap, hhost⟩ := cipher_final ho s
  obtain ⟨⟨-, -, -, -, hcap', hhost'⟩, hp', -⟩ := emitCipher_spec (State.advance^[11] (State.begin c s))
  rw [Function.iterate_succ_apply', advance_final hp]
  exact ⟨hp', hcap'.trans hcap, hhost'.trans hhost⟩

theorem expandkey_ends (c : Command) (s : State) :
    EndsAtResponse c s (State.loadExpand c s).emitSchedule := by
  obtain ⟨-, hcap, hhost, -⟩ := loadExpand_spec c s
  obtain ⟨-, hp', hcap', -, -, -, hhost'⟩ := emitSchedule_spec (State.loadExpand c s)
  exact ⟨hp', hcap'.trans hcap, hhost'.trans hhost⟩

theorem transform_ends (c : Command) (f : Block → Block) (s : State) :
    EndsAtResponse c s (State.transformCommand c f s) := by
  obtain ⟨-, -, hp, -, hcap, -, -, -, -, -, -, hhost⟩ := transformCommand_spec c f s
  exact ⟨hp, hcap, hhost⟩

theorem exec_ends {i : Instr} {s t : State} (h : exec i s = .next t) : EndsAtResponse (encode i) s t := by
  cases i with
  | enc a b =>
    obtain rfl := Host.Outcome.next.inj ((execEnc_eq_run a b s).symm.trans h)
    exact cipher_ends (.inl rfl) s
  | dec a b =>
    obtain rfl := Host.Outcome.next.inj ((execDec_eq_run a b s).symm.trans h)
    exact cipher_ends (.inr rfl) s
  | expandkey a b =>
    obtain rfl := Host.Outcome.next.inj h
    exact expandkey_ends _ s
  | _ a b =>
    obtain rfl := Host.Outcome.next.inj h
    exact transform_ends _ _ s

/-- Every instruction ends at its response, and that is the one its command is due (R33, R39). -/
theorem exec_spec (i : Instr) (s : State) :
    ∃ t, exec i s = .next t ∧ EndsAtResponse (encode i) s t ∧ t.response = some (respond (encode i)) := by
  have hrun := execIsTheSequencersRun i s
  obtain ⟨hp, hcap, hhost⟩ := exec_ends hrun
  exact ⟨_, hrun, ⟨hp, hcap, hhost⟩, by rw [(legal_done_iff hp).mp (iterate_advance_legal _ _ _), hcap]⟩

/-- An assigned opcode's response has `err = 0` (R34). -/
theorem exec_err {i : Instr} {s t : State} (h : exec i s = .next t) : t.err = false := by
  obtain ⟨t', ht', ⟨hp, -⟩, hresp⟩ := exec_spec i s
  obtain rfl := Host.Outcome.next.inj (ht'.symm.trans h)
  rw [← Bool.not_eq_true, err_eq_true_iff_response hp, hresp, Option.some.injEq]
  exact respond_encode_ne_illegalOp i

/-- The constant tables are no part of the state (R20, R37). -/
theorem memRead_rom (s t : State) {sp : Space} (h : sp = .sbox ∨ sp = .invSbox ∨ sp = .rcon) (x : Nat) :
    t.memRead sp x = s.memRead sp x := by
  rcases h with rfl | rfl | rfl <;> rfl

/-- Settles O25: EXPANDKEY is LOAD, which writes K and the schedule's registers, and the emit on `sched`. -/
theorem expandKeyLeavesSAlone : Obligations.ExpandKeyLeavesSAlone := by
  intro s a b
  obtain ⟨-, hcap, hhost, hRND, hS, hK, -, hPOS, hRCI⟩ := loadExpand_spec ⟨Op.expandkey, a, b⟩ s
  obtain ⟨⟨hS', hK', -, -, hRND', hPOS', hRCI'⟩, hp, hcap', herr, -, -, hhost'⟩ :=
    emitSchedule_spec (State.loadExpand ⟨Op.expandkey, a, b⟩ s)
  refine ⟨_, rfl, hp, herr, hcap'.trans hcap, hS'.trans hS, hRND'.trans hRND, hhost'.trans hhost, ?_, hPOS'.trans hPOS,
    hRCI'.trans hRCI, fun x => ?_, fun _ => memRead_rom _ _⟩
  · rw [hK', hK, hcap]
  · rw [State.memRead_state, State.memRead_state, hS', hS]

/-- FINAL still holds the expanded key, and the response touches none of it. -/
theorem cipher_end_keyExpanded {c : Command} (ho : c.op = Op.enc ∨ c.op = Op.dec) (s : State) :
    (State.advance^[12] (State.begin c s)).KeyExpanded := by
  obtain ⟨hp, -⟩ := cipher_final ho s
  obtain ⟨-, hk, -⟩ := (legal_final_iff hp).mp (iterate_advance_legal c s 11)
  rw [Function.iterate_succ_apply', advance_final hp]
  exact keyExpanded_of_keeps (emitCipher_spec _).1 hk

theorem exec_cipher_keyExpanded {i : Instr} {a b : PortWord} (hi : i = .enc a b ∨ i = .dec a b) {s t : State}
    (h : exec i s = .next t) : t.KeyExpanded := by
  rcases hi with rfl | rfl
  · obtain rfl := Host.Outcome.next.inj ((execEnc_eq_run a b s).symm.trans h)
    exact cipher_end_keyExpanded (.inl rfl) s
  · obtain rfl := Host.Outcome.next.inj ((execDec_eq_run a b s).symm.trans h)
    exact cipher_end_keyExpanded (.inr rfl) s

/-- Settles O26: the key operand and its schedule stand from LOAD to the response. -/
theorem cipherCommandsKeepTheKeyOperand : Obligations.CipherCommandsKeepTheKeyOperand := by
  intro s a b i hi
  obtain ⟨t, ht, ⟨hp, hcap, hhost⟩, -⟩ := exec_spec i s
  obtain ⟨hK, hW, hPOS, hRCI⟩ := exec_cipher_keyExpanded hi ht
  have hb : (encode i).b = b := by rcases hi with rfl | rfl <;> rfl
  refine ⟨t, ht, hp, exec_err ht, hcap, ?_, hhost, hPOS, hRCI, fun j hj => ?_, fun _ => memRead_rom s t⟩
  · rw [hK, hcap, hb]
  · rw [hW, byteAt_scheduleOf_key _ hj]

/-! ## The phases depend on the opcode alone -/

/-- Two states whose sequencers are at the same point: the same phase, in a busy phase the same opcode, in a round the
same RND. -/
def SamePoint (s t : State) : Prop :=
  s.PHASE = t.PHASE ∧ (¬ s.AtRest → s.cap.op = t.cap.op) ∧ (s.PHASE = .round → s.RND = t.RND)

theorem begin_samePoint {c c' : Command} (h : c.op = c'.op) (s s' : State) :
    SamePoint (State.begin c s) (State.begin c' s') := by
  have hp : (State.begin c s).PHASE = (State.begin c' s').PHASE := by rw [begin_PHASE, begin_PHASE, h]
  refine ⟨hp, fun _ => ?_, fun hr => ?_⟩
  · rw [(begin_frame c s).1, (begin_frame c' s').1, h]
  · rw [begin_PHASE] at hr
    split at hr <;> cases hr

theorem advance_samePoint {s t : State} (h : SamePoint s t) : SamePoint s.advance t.advance := by
  obtain ⟨hp, hop, hrnd⟩ := h
  have hp' : s.advance.PHASE = t.advance.PHASE := by
    rw [advance_PHASE, advance_PHASE, ← hp]
    cases hs : s.PHASE with
    | idle | xform | init | final | done => rfl
    | load => rw [hop (by simp [State.AtRest, hs])]; rfl
    | round => rw [hop (by simp [State.AtRest, hs]), hrnd hs]
  refine ⟨hp', fun hrest => ?_, fun hr => ?_⟩
  · have hbusy : ¬ s.AtRest := by
      rintro (hs | hs)
      · exact hrest (.inl (by rw [advance_idle hs, hs]))
      · exact hrest (.inl (by rw [advance_PHASE, hs, nextPhase]))
    have hd : s.PHASE ≠ .done := fun hs => hbusy (.inr hs)
    rw [(advance_frame s hd).1, (advance_frame t (hp ▸ hd)).1, hop hbusy]
  · rcases PHASE_of_advance_round hr with hs | hs
    · rw [advance_RND_of_init hs, advance_RND_of_init (hp ▸ hs), hop (by simp [State.AtRest, hs])]
    · rw [advance_RND_of_round hs hr, advance_RND_of_round (hp ▸ hs) (hp' ▸ hr), hop (by simp [State.AtRest, hs]),
        hrnd hs]

theorem iterate_samePoint {s t : State} (h : SamePoint s t) (n : Nat) :
    SamePoint (State.advance^[n] s) (State.advance^[n] t) := by
  induction n with
  | zero => exact h
  | succ n ih =>
    rw [Function.iterate_succ_apply', Function.iterate_succ_apply']
    exact advance_samePoint ih

theorem nextPhase_load_of_transform :
    ∀ op ∈ transformOps, ∀ n, nextPhase op n .load = .xform := by
  intro op h n
  obtain ⟨he, hd, hk⟩ := ne_of_mem_transformOps op h
  rw [nextPhase, if_neg he, if_neg hd, if_neg hk]

/-- Settles O22: the table is `nextPhase`, and two runs with one opcode stay at the same point. -/
theorem phaseTransitionsFollowTheTable : Obligations.PhaseTransitionsFollowTheTable := by
  refine ⟨fun s c => begin_PHASE c s, fun s => ⟨fun hp => ?_, fun hp ho => ?_, fun hp ho => ?_, fun hp ho => ?_, fun hp => ?_,
    fun hp => ?_, fun hp ho => ?_, fun hp ho => ?_, fun hp => ?_, fun hp => ?_⟩,
    fun s s' c c' n h => (iterate_samePoint (begin_samePoint h s s') n).1⟩
  · rw [advance_PHASE, hp, nextPhase]
  · rw [advance_PHASE, hp]
    rcases ho with ho | ho <;> rw [ho] <;> rfl
  · rw [advance_PHASE, hp, nextPhase_load_of_transform _ ho]
  · rw [advance_PHASE, hp, ho]
    rfl
  · rw [advance_PHASE, hp, nextPhase]
  · rw [advance_PHASE, hp, nextPhase]
  · rw [advance_round_enc hp ho]
    split_ifs
    · exact ⟨rfl, rfl⟩
    · rfl
  · rw [advance_round_dec hp ho]
    split_ifs
    · exact ⟨rfl, rfl⟩
    · rfl
  · rw [advance_PHASE, hp, nextPhase]
  · rw [advance_PHASE, hp, nextPhase]

end Sys2Proof.Machine
end

section
/-! PROOFS. The step: what it does at rest, in the middle of an operation and under reset, and the invariant of runs
(10_state.md R33, R34, R39, R40; 60_exceptions.md R207, R215, R251). -/

namespace Sys2Proof.Machine

/-! ## A busy core reaches its response -/

/-- How many transitions an operation in progress still has to do, at most (R251). -/
def transitionsLeft (op : BitVec 4) (rnd : Nat) : Phase → Nat
  | .idle => 0
  | .load => 12
  | .xform => 1
  | .init => 11
  | .round => (if opInv op then rnd - 1 else 9 - rnd) + 2
  | .final => 1
  | .done => 0

abbrev State.remaining (s : State) : Nat := transitionsLeft s.cap.op s.RND s.PHASE

theorem remaining_le (s : State) : s.remaining ≤ 12 + s.RND := by
  cases hp : s.PHASE with
  | round =>
    simp only [State.remaining, hp, transitionsLeft]
    split <;> omega
  | _ =>
    simp only [State.remaining, hp, transitionsLeft]
    omega

theorem advance_remaining {s : State} (hr : ¬ s.AtRest) : s.advance.remaining < s.remaining := by
  cases hp : s.PHASE with
  | idle => exact absurd (.inl hp) hr
  | done => exact absurd (.inr hp) hr
  | load =>
    obtain ⟨hcap, -⟩ := advance_frame s (by rw [hp]; decide)
    rw [State.remaining, State.remaining, hcap, advance_PHASE, hp, nextPhase]
    split_ifs <;> simp [transitionsLeft]
  | xform =>
    rw [State.remaining, State.remaining, advance_PHASE, hp, nextPhase]
    simp [transitionsLeft]
  | final =>
    rw [State.remaining, State.remaining, advance_PHASE, hp, nextPhase]
    simp [transitionsLeft]
  | init =>
    obtain ⟨hcap, -⟩ := advance_frame s (by rw [hp]; decide)
    rw [State.remaining, State.remaining, hcap, advance_RND_of_init hp, advance_PHASE, hp, nextPhase]
    simp only [transitionsLeft]
    split <;> omega
  | round =>
    obtain ⟨hcap, -⟩ := advance_frame s (by rw [hp]; decide)
    have hnext := advance_PHASE s
    rw [hp, nextPhase] at hnext
    obtain hn | hf : s.advance.PHASE = .round ∨ s.advance.PHASE = .final := by
      rw [hnext]
      split_ifs <;> simp
    · rw [State.remaining, State.remaining, hcap, advance_RND_of_round hp hn, hn, hp]
      rw [hn] at hnext
      simp only [transitionsLeft]
      split_ifs at hnext ⊢ <;> omega
    · rw [State.remaining, State.remaining, hf, hp]
      simp only [transitionsLeft]
      omega

theorem advance_PHASE_ne_idle {s : State} (hr : ¬ s.AtRest) : s.advance.PHASE ≠ .idle := by
  rw [advance_PHASE]
  cases hp : s.PHASE with
  | idle => exact absurd (.inl hp) hr
  | done => exact absurd (.inr hp) hr
  | load =>
    rw [nextPhase]
    split_ifs <;> decide
  | round =>
    rw [nextPhase]
    split_ifs <;> decide
  | xform | init | final => simp [nextPhase]

/-- With enough transitions allowed, an operation in progress ends at its response; the captured command and the host's
list are as before. -/
theorem advanceToDone_spec (n : Nat) {s : State} (hi : s.PHASE ≠ .idle) (hn : s.remaining ≤ n) :
    EndsAtResponse s.cap s (State.advanceToDone n s) := by
  induction n generalizing s with
  | zero =>
    by_cases hd : s.PHASE = .done
    · exact ⟨hd, rfl, rfl⟩
    · have := advance_remaining (s := s) (by rintro (h | h) <;> contradiction)
      omega
  | succ n ih =>
    rw [State.advanceToDone]
    split
    next hd => exact ⟨hd, rfl, rfl⟩
    next hd =>
      have hr : ¬ s.AtRest := by rintro (h | h) <;> contradiction
      have hlt := advance_remaining hr
      obtain ⟨hcap, hhost⟩ := advance_frame s hd
      obtain ⟨hp, hcap', hhost'⟩ := ih (advance_PHASE_ne_idle hr) (by omega)
      exact ⟨hp, hcap'.trans hcap, hhost'.trans hhost⟩

/-- A core in the middle of an operation finishes it and accepts nothing (R33, R251). -/
theorem finish_spec {s : State} (hr : ¬ s.AtRest) : EndsAtResponse s.cap s s.finish :=
  advanceToDone_spec _ (fun h => hr (.inl h)) (remaining_le s)

/-! ## What a step does -/

theorem ports_of_host {s : State} {p : HostInput} {rest : List HostInput} (h : s.host = p :: rest) : s.ports = p := by
  rw [State.ports, h, List.headD_cons]

theorem takePorts_of_host {s : State} {p : HostInput} {rest : List HostInput} (h : s.host = p :: rest) :
    s.takePorts = s.withHost rest := by
  rw [State.takePorts, h, List.tail_cons]

theorem step_of_rst {s : State} (h : s.ports.rst = true) : step s = .next s.takePorts.applyReset := by
  rw [step, if_pos h]

theorem step_of_idle {s : State} (h : s.ports.rst = false) (hp : s.PHASE = .idle) :
    step s = State.serve s.ports s.takePorts := by
  simp [step, h, hp]

theorem step_of_done {s : State} (h : s.ports.rst = false) (hp : s.PHASE = .done) :
    step s = State.serve s.ports s.takePorts.leaveDone := by
  simp [step, h, hp]

theorem step_of_busy {s : State} (h : s.ports.rst = false) (hr : ¬ s.AtRest) : step s = .next s.takePorts.finish := by
  cases hp : s.PHASE with
  | idle => exact absurd (.inl hp) hr
  | done => exact absurd (.inr hp) hr
  | _ => simp [step, h, hp]

/-- A core at rest serves its command port, from some state with this step's host input used up (R33). -/
theorem step_of_atRest {s : State} (h : s.ports.rst = false) (hr : s.AtRest) :
    ∃ s0 : State, s0.host = s.host.tail ∧ step s = State.serve s.ports s0 := by
  rcases hr with hp | hp
  · exact ⟨s.takePorts, rfl, step_of_idle h hp⟩
  · obtain ⟨-, hhost, -⟩ := toIdle_spec s.takePorts
    exact ⟨s.takePorts.leaveDone, hhost, step_of_done h hp⟩

theorem serve_quiet {p : HostInput} (h : p.cmdValid = false) (s : State) : State.serve p s = .next s.waitIdle := by
  rw [State.serve, h]
  rfl

theorem serve_decoded {c : Command} {i : Instr} (h : decode c = .ok i) (s : State) :
    State.serve ⟨false, true, c⟩ s = exec i s := by
  rw [State.serve, if_pos rfl, h]

theorem serve_reserved {c : Command} (h : c.op ∈ reservedOps) (s : State) :
    State.serve ⟨false, true, c⟩ s = .next (State.raiseIllegalOp c s) := by
  rw [State.serve, if_pos rfl, decode_of_reserved h]

/-- Every command served reaches the response it is due (R33, R39). -/
theorem serve_command (c : Command) (s : State) :
    ∃ t, State.serve ⟨false, true, c⟩ s = .next t ∧ EndsAtResponse c s t ∧ t.response = some (respond c) := by
  obtain ⟨i, rfl⟩ | hr := encoded_or_reserved c
  · rw [serve_decoded (decode_encode i)]
    exact exec_spec i s
  · obtain ⟨-, hp, hcap, herr, hhost⟩ := raiseIllegalOp_spec c s
    exact ⟨_, serve_reserved hr s, ⟨hp, hcap, hhost⟩, by rw [response_illegalOp hp herr, respond_of_reserved hr]⟩

/-- The step of a core at rest that is presented a command (R33, R39). -/
theorem step_command {s : State} {c : Command} {rest : List HostInput} (hr : s.AtRest)
    (hh : s.host = ⟨false, true, c⟩ :: rest) :
    ∃ t, step s = .next t ∧ t.PHASE = .done ∧ t.cap = c ∧ t.host = rest ∧ t.response = some (respond c) := by
  have hport := ports_of_host hh
  obtain ⟨s0, hhost, hstep⟩ := step_of_atRest (by rw [hport]) hr
  obtain ⟨t, ht, ⟨hp, hcap, hhost'⟩, hresp⟩ := serve_command c s0
  rw [hh, List.tail_cons] at hhost
  exact ⟨t, by rw [hstep, hport, ht], hp, hcap, hhost'.trans hhost, hresp⟩

/-- In IDLE the core is ready and gives no response (R32). -/
theorem idle_signals {s : State} (h : s.PHASE = .idle) :
    s.cmdReady = true ∧ s.rspValid = false ∧ s.response = none := by
  simp [State.cmdReady, State.rspValid, State.response, h]

theorem toIdle_PHASE (s : State) : s.toIdle.PHASE = .idle := (toIdle_spec s).1

/-- The step of a core at rest that is presented nothing (R40, R215). -/
theorem step_quiet {s : State} (hr : s.AtRest) (hrst : s.ports.rst = false) (hv : s.ports.cmdValid = false) :
    ∃ t, step s = .next t ∧ t.PHASE = .idle := by
  obtain ⟨s0, -, hstep⟩ := step_of_atRest hrst hr
  exact ⟨_, hstep.trans (serve_quiet hv s0), toIdle_PHASE s0⟩

/-! ## The statements about the command port -/

/-- Settles O6: at rest a step serves the command port, and a command that decodes is run by `exec`. -/
theorem stepRunsTheDecodedCommand : Obligations.StepRunsTheDecodedCommand := by
  intro s c rest i hh hd
  have hport := ports_of_host hh
  have hrst : s.ports.rst = false := by rw [hport]
  refine ⟨fun hp => ?_, fun hp => ?_⟩
  · rw [step_of_idle hrst hp, hport, serve_decoded hd, takePorts_of_host hh]
  · rw [step_of_done hrst hp, hport, serve_decoded hd, takePorts_of_host hh]

theorem decode_of_decodeTableWord {nbits w : Nat} {i : Instr} (h : decodeTableWord nbits w = some i) :
    decode (tableCommand nbits w) = .ok i := by
  rw [decodeTableWord] at h
  split at h
  next j hj => rw [hj, Option.some.inj h]
  next => cases h

/-- Settles O7, as the case of O6 for a core in IDLE. -/
theorem fetchWordRunsNext : Obligations.FetchWordRunsNext := fun s nbits w i h =>
  (stepRunsTheDecodedCommand (s.withFetchWord nbits w) _ s.host.tail i rfl (decode_of_decodeTableWord h)).1 rfl

/-- Settles O9: `err` is read off the response, and only a reserved opcode is due the error response. -/
theorem errIsSetByReservedOpcodesOnly : Obligations.ErrIsSetByReservedOpcodesOnly := by
  intro s c rest hr hh
  obtain ⟨t, ht, hp, -, -, hresp⟩ := step_command hr hh
  have herr : t.err = true ↔ c.op ∈ reservedOps := by
    rw [err_eq_true_iff_response hp, hresp, Option.some.injEq, respond_eq_illegalOp_iff]
  exact ⟨t, ht, hp, herr, by rw [assignedOps_iff_not_reservedOps, ← herr, Bool.not_eq_true]⟩

/-- Settles O10: acceptance ends at the response, a quiet step then waits, and a busy core only finishes. -/
theorem acceptedCommandHasExactlyOneResponse : Obligations.AcceptedCommandHasExactlyOneResponse := by
  refine ⟨fun s c rest hr hh => ?_, fun s p rest hr hh hrst => ?_⟩
  · obtain ⟨t, ht, hp, hcap, hhost, -⟩ := step_command hr hh
    refine ⟨t, ht, hcap, by simp [State.rspValid, hp], by simp [State.cmdReady, hp], hhost, fun q rest' hq hv => ?_⟩
    obtain ⟨u, hu, hidle⟩ := step_quiet (s := t.withHost (q :: rest')) (.inr hp) hq hv
    exact ⟨u, hu, idle_signals hidle⟩
  · obtain ⟨hp, hcap, hhost⟩ := finish_spec (s := s.takePorts) hr
    rw [takePorts_of_host hh] at hp hcap hhost
    refine ⟨_, step_of_busy (by rw [ports_of_host hh, hrst]) hr, ?_⟩
    rw [takePorts_of_host hh]
    exact ⟨hcap, by simp [State.rspValid, hp], hhost⟩

/-- Settles O12: a core at rest with nothing to serve goes to IDLE. -/
theorem idleCoreWaitsForACommand : Obligations.IdleCoreWaitsForACommand := by
  intro s hr hrst hv
  obtain ⟨t, ht, hp⟩ := step_quiet hr hrst hv
  obtain ⟨hready, -, hresp⟩ := idle_signals hp
  exact ⟨t, ht, hp, hready, hresp⟩

/-- Settles O13: reset comes before the phase is looked at, and leads to IDLE. -/
theorem resetAlwaysLeadsToIdle : Obligations.ResetAlwaysLeadsToIdle := fun _ hrst =>
  ⟨_, step_of_rst hrst, toIdle_PHASE _, idle_signals (toIdle_PHASE _)⟩

/-- Settles O14, by evaluation of the start state. -/
theorem startStateIsIdleAndReady : Obligations.StartStateIsIdleAndReady := ⟨rfl, rfl, rfl, rfl⟩

/-- Settles O20: the step of a core at rest ends at the response its command is due. -/
theorem everyCommandIsAnsweredAsSpecified : Obligations.EveryCommandIsAnsweredAsSpecified := by
  intro s c rest hr hh
  obtain ⟨t, ht, -, -, -, hresp⟩ := step_command hr hh
  exact ⟨t, ht, hresp⟩

/-- Settles O19: by O20 both responses are the one the command is due. -/
theorem responseDependsOnTheCommandAlone : Obligations.ResponseDependsOnTheCommandAlone := by
  intro s s' c rest rest' hr hr' hh hh'
  obtain ⟨t, ht, hresp⟩ := everyCommandIsAnsweredAsSpecified s c rest hr hh
  obtain ⟨t', ht', hresp'⟩ := everyCommandIsAnsweredAsSpecified s' c rest' hr' hh'
  exact ⟨t, t', ht, ht', by rw [hresp]; rfl, hresp.trans hresp'.symm⟩

/-! ## The invariant of runs -/

theorem toIdle_inv (s : State) : s.toIdle.Inv := ⟨toIdle_countersInRange s, legal_idle (toIdle_PHASE s)⟩

/-- The invariant says nothing of what the host drives. -/
theorem takePorts_inv {s : State} (h : s.Inv) : s.takePorts.Inv := h

theorem advanceToDone_inv (n : Nat) {s : State} (h : s.Inv) : (State.advanceToDone n s).Inv := by
  induction n generalizing s with
  | zero => exact h
  | succ n ih =>
    rw [State.advanceToDone]
    split
    next => exact h
    next => exact ih (advance_inv h)

theorem exec_inv {i : Instr} {s t : State} (hs : s.CountersInRange) (h : exec i s = .next t) : t.Inv := by
  obtain rfl := Host.Outcome.next.inj ((execIsTheSequencersRun i s).symm.trans h)
  exact Function.Iterate.rec State.Inv (begin_inv _ hs) (fun _ => advance_inv) _

theorem raiseIllegalOp_inv {c : Command} {e : DecodeError} (hd : decode c = .error e) {s : State}
    (hs : s.CountersInRange) : (State.raiseIllegalOp c s).Inv := by
  have h := begin_inv c hs
  rwa [State.begin, hd] at h

/-- Settles O16: a step is a return to IDLE, or runs of the sequencer, which keep the invariant. -/
theorem stepKeepsTheInvariant : Obligations.StepKeepsTheInvariant := by
  intro s t hs hstep
  obtain ⟨-, rfl⟩ | ⟨-, -, -, rfl⟩ | ⟨-, s0, hs0, h⟩ := step_cases hstep
  · exact toIdle_inv _
  · exact advanceToDone_inv _ (takePorts_inv hs)
  · have hcount : s0.CountersInRange := by
      obtain ⟨-, rfl⟩ | ⟨-, rfl⟩ := hs0
      · exact (takePorts_inv hs).1
      · exact toIdle_countersInRange _
    obtain ⟨-, rfl⟩ | ⟨-, i, -, hexec⟩ | ⟨-, e, hd, rfl⟩ := h
    · exact toIdle_inv s0
    · exact exec_inv hcount hexec
    · exact raiseIllegalOp_inv hd hcount

/-- Settles O17, by evaluation of the start state. -/
theorem startStateMeetsTheInvariant : Obligations.StartStateMeetsTheInvariant := ⟨by decide, trivial⟩

end Sys2Proof.Machine
end

section
/-! PROOFS. The operand load and the result emit, the ports of a busy core, and instances side by side (20_memory.md R57 to
R59, R74; 60_exceptions.md R214; 70_reset_and_hazards.md R244). -/

namespace Sys2Proof.Machine

/-! ## Operand load and result emit -/

theorem byteAt_loadS (s : State) {i : Nat} (h : i < 16) : byteAt s.loadS.S i = portByte s.cap.a i := by
  rw [State.loadS, State.withS_S, byteAt_bytes _ h]

theorem byteAt_loadK (s : State) {i : Nat} (h : i < 16) : byteAt s.loadK.K i = portByte s.cap.b i := by
  rw [State.loadK, State.withK_K, byteAt_bytes _ h]

theorem portByte_emitBlock (s : State) {i : Nat} (h : i < 16) : portByte s.emitBlock.r i = byteAt s.S i := by
  obtain ⟨-, -, -, -, hr, -⟩ := emitBlock_spec s
  rw [hr, portByte_pack _ h]

theorem schedByte_emitSchedule (s : State) {j : Nat} (h : j < 176) :
    schedByte s.emitSchedule.sched j = byteAt s.W j := by
  obtain ⟨-, -, -, -, hsched, -⟩ := emitSchedule_spec s
  rw [hsched, schedByte_packSched _ h]

/-- Settles O28: the bit ranges are `portByte` and `schedByte`, and packing undoes unpacking. -/
theorem loadAndEmitMoveBytesInIndexOrder : Obligations.LoadAndEmitMoveBytesInIndexOrder := fun s _ _ hi hj =>
  ⟨byteAt_loadS s hi, byteAt_loadK s hi, portByte_emitBlock s hi, schedByte_emitSchedule s hj⟩

/-! ## The ports of a busy core -/

/-- Of what the host drives at this step, a busy core looks at `rst` alone (R57, R244). -/
theorem step_withHost_of_busy {s : State} (hr : ¬ s.AtRest) {p : HostInput} (hp : p.rst = false)
    (rest : List HostInput) : step (s.withHost (p :: rest)) = .next (s.withHost rest).finish :=
  step_of_busy (s := s.withHost (p :: rest)) hp hr

/-- Settles O11: with either input the core finishes from the same state. -/
theorem busyCoreIgnoresThePorts : Obligations.BusyCoreIgnoresThePorts := fun _ _ _ rest hr hp hq =>
  (step_withHost_of_busy hr hp rest).trans (step_withHost_of_busy hr hq rest).symm

/-! ## Instances side by side -/

/-- All that a step of instance `n` can do: the instance is there, and what its own step gives takes its place. -/
theorem Cluster.stepAt_eq_some_iff {cl cl' : Cluster} {n : Nat} :
    cl.stepAt n = some cl' ↔ ∃ s t, cl[n]? = some s ∧ step s = .next t ∧ cl' = cl.set n t := by
  rw [Cluster.stepAt]
  cases hs : cl[n]? with
  | none => simp
  | some s => cases ht : step s <;> simp [ht, eq_comm]

/-- Settles O58: the step sets entry `n` of the list and no other. -/
theorem instancesAreIndependent : Obligations.InstancesAreIndependent := by
  intro cl cl' n h
  obtain ⟨s, t, hs, ht, rfl⟩ := Cluster.stepAt_eq_some_iff.mp h
  obtain ⟨hn, -⟩ := List.getElem?_eq_some_iff.mp hs
  exact ⟨fun m hm => List.getElem?_set_ne hm.symm, s, t, hs, ht, List.getElem?_set_self hn⟩

end Sys2Proof.Machine
end

section
/-! PROOFS. The command word and its fields, the decoder as the inverse of the encoder, and what the opcode map says of
all sixteen values (30_encoding.md R81 to R88). -/

namespace Sys2Proof.Machine

/-! ## The fields of a command word -/

theorem extractLsb'_word_op (c : Command) : c.word.extractLsb' 256 4 = c.op := BitVec.extractLsb'_append_eq_left

/-- Bits of `b` stand in the word where they stand in `b`. -/
theorem extractLsb'_word_b (c : Command) {start len : Nat} (h : start + len ≤ 128) :
    c.word.extractLsb' start len = c.b.extractLsb' start len := by
  rw [Command.word, BitVec.extractLsb'_append_eq_of_add_le (by omega), BitVec.extractLsb'_append_eq_of_add_le h]

/-- Bits of `a` stand in the word 128 places further up. -/
theorem extractLsb'_word_a (c : Command) {start len : Nat} (h : start + len ≤ 128) :
    c.word.extractLsb' (128 + start) len = c.a.extractLsb' start len := by
  rw [Command.word, BitVec.extractLsb'_append_eq_of_add_le (by omega), BitVec.extractLsb'_append_eq_of_le (by omega),
    Nat.add_sub_cancel_left]

/-- A command is read back from its word. -/
theorem ofWord_word (c : Command) : Command.ofWord c.word = c := by
  obtain ⟨op, a, b⟩ := c
  have ha := extractLsb'_word_a ⟨op, a, b⟩ (start := 0) (len := 128) (by omega)
  have hb := extractLsb'_word_b ⟨op, a, b⟩ (start := 0) (len := 128) (by omega)
  rw [Command.ofWord, extractLsb'_word_op, ha, hb, BitVec.extractLsb'_eq_self, BitVec.extractLsb'_eq_self]

/-- The three fields of R81 are the whole word. -/
theorem word_ofWord (w : BitVec 260) : (Command.ofWord w).word = w := by
  have hab : (w.extractLsb' 128 128 ++ w.extractLsb' 0 128 : BitVec 256) = w.extractLsb' 0 256 :=
    BitVec.extractLsb'_append_extractLsb'_eq_extractLsb' rfl
  rw [Command.word, Command.ofWord, hab]
  exact BitVec.extractLsb'_append_extractLsb'

/-! ## Decoder and encoder -/

/-- A command decodes to the instruction it encodes, and to no other (R84). -/
theorem decode_eq_ok_iff {c : Command} {i : Instr} : decode c = .ok i ↔ encode i = c := by
  constructor
  · intro h
    obtain ⟨j, rfl⟩ | hr := encoded_or_reserved c
    · rw [Except.ok.inj ((decode_encode j).symm.trans h)]
    · cases (decode_of_reserved hr).symm.trans h
  · rintro rfl
    exact decode_encode i

/-- The same on command words: by the two directions of R81. -/
theorem decodeWord_eq_ok_iff {w : BitVec 260} {i : Instr} : decodeWord w = .ok i ↔ encodeWord i = w := by
  rw [decodeWord, decode_eq_ok_iff, encodeWord]
  constructor
  · intro h
    rw [h, word_ofWord]
  · rintro rfl
    rw [ofWord_word]

/-- Settles O1: the decoder inverts the encoder on command words. -/
theorem decodeOfEncodeIsTheInstruction : Obligations.DecodeOfEncodeIsTheInstruction := fun _ _ =>
  decodeWord_eq_ok_iff.mpr rfl

/-- Settles O2: the other direction of the same equivalence. -/
theorem decodedWordIsTheEncoding : Obligations.DecodedWordIsTheEncoding := fun _ _ => decodeWord_eq_ok_iff.mp

set_option exponentiation.threshold 300 in
/-- Settles O5: each of the four words is the encoding of its command. -/
theorem writtenCommandWordsDecode : Obligations.WrittenCommandWordsDecode :=
  ⟨decodeWord_eq_ok_iff.mpr rfl, decodeWord_eq_ok_iff.mpr rfl, decodeWord_eq_ok_iff.mpr rfl, decodeWord_eq_ok_iff.mpr rfl⟩

/-! ## The opcode map -/

/-- Settles O3: an assigned opcode is the encoding of its command, and a reserved one does not decode. -/
theorem opcodeMapCoversAllSixteenValues : Obligations.OpcodeMapCoversAllSixteenValues := by
  intro a b
  have rejected : ∀ op ∈ reservedOps, decode ⟨op, a, b⟩ = .error (.reservedOpcode op) := fun _ h => decode_of_reserved h
  exact ⟨rejected 0x0 (by decide), decode_encode (.enc a b), decode_encode (.expandkey a b), rejected 0x3 (by decide),
    decode_encode (.subbytes a b), decode_encode (.shiftrows a b), decode_encode (.mixcolumns a b),
    decode_encode (.addroundkey a b), rejected 0x8 (by decide), decode_encode (.dec a b), rejected 0xA (by decide),
    rejected 0xB (by decide), decode_encode (.invsubbytes a b), decode_encode (.invshiftrows a b),
    decode_encode (.invmixcolumns a b), rejected 0xF (by decide)⟩

/-- Settles O4, command by command: the opcode of each is a constant of the map. -/
theorem inverseOpcodeDiffersInInvOnly : Obligations.InverseOpcodeDiffersInInvOnly := by
  intro a b
  simp only [List.forall_mem_cons, encode]
  decide

/-! ## Ignored operands -/

/-- From any two states, two instructions whose commands are due the same response give it. -/
theorem exec_response_congr {i i' : Instr} (h : respond (encode i) = respond (encode i')) (s s' : State) :
    ∃ t t', exec i s = .next t ∧ exec i' s' = .next t' ∧ t.response = t'.response := by
  obtain ⟨t, ht, -, hresp⟩ := exec_spec i s
  obtain ⟨t', ht', -, hresp'⟩ := exec_spec i' s'
  exact ⟨t, t', ht, ht', by rw [hresp, hresp', h]⟩

/-- The response due to a single-transform command of format S does not contain `b` (R83, R87). -/
theorem respond_ignores_b (a b b' : PortWord) :
    ∀ mk ∈ [Instr.subbytes, .shiftrows, .mixcolumns, .invsubbytes, .invshiftrows, .invmixcolumns],
      respond (encode (mk a b)) = respond (encode (mk a b')) := by
  intro mk hmk
  simp only [List.mem_cons, List.not_mem_nil, or_false] at hmk
  rcases hmk with rfl | rfl | rfl | rfl | rfl | rfl <;> rfl

/-- Settles O27: the response is the one the command is due, and that one does not contain the ignored operand. -/
theorem ignoredOperandHasNoEffect : Obligations.IgnoredOperandHasNoEffect := fun s s' a a' b b' =>
  ⟨exec_response_congr (i := .expandkey a b) (i' := .expandkey a' b) rfl s s',
    fun mk hmk => exec_response_congr (respond_ignores_b a b b' mk hmk) s s'⟩

end Sys2Proof.Machine
end

section
/-! PROOFS. Assembly lines: the command a line assembles to, and the digits of its command word (30_encoding.md R95 to
R98). -/

namespace Sys2Proof.Machine

/-! ## The command of a line -/

/-- All that assembling can do: both operands have a port value, and the opcode is the mnemonic's (R98). -/
theorem assemble_eq_some_iff {names : HostNames} {l : AsmLine} {c : Command} :
    l.assemble names = some c ↔ ∃ a b, l.a.port names l.mnemonic.format.usesA = some a ∧
      l.b.port names l.mnemonic.format.usesB = some b ∧ c = ⟨l.mnemonic.op, a, b⟩ := by
  rw [AsmLine.assemble]
  cases l.a.port names l.mnemonic.format.usesA <;> cases l.b.port names l.mnemonic.format.usesB <;> simp [eq_comm]

/-- Settles O56: the two mnemonics have the same format and the same opcode. -/
theorem invAddRoundKeyIsAddRoundKey : Obligations.InvAddRoundKeyIsAddRoundKey := by
  refine fun names target a b => ⟨rfl, fun c h => ?_⟩
  obtain ⟨_, _, -, -, rfl⟩ := assemble_eq_some_iff.mp h
  rfl

/-- `-` stands for 16 zero bytes (R98). -/
theorem port_ignored (names : HostNames) :
    AsmOperand.ignored.port names false = some (pack (Vector.replicate 16 0)) :=
  congrArg some (by decide : (0 : PortWord) = pack (Vector.replicate 16 0))

/-! ## The digits of a command word -/

/-- Digit `j` of a number written in hexadecimal, the least significant first. -/
theorem toNat_div_pow_mod {n : Nat} (x : BitVec n) (j : Nat) :
    x.toNat / 16 ^ j % 16 = (x.extractLsb' (4 * j) 4).toNat := by
  rw [BitVec.extractLsb'_toNat, Nat.shiftRight_eq_div_pow, Nat.pow_mul]

/-- Digit `k` of a command word is its four bits from `256 - 4k` on. -/
theorem commandDigits_eq_bits (c : Command) {k : Nat} (h : k < 65) :
    (commandDigits c)[k]? = some (hexDigit (c.word.extractLsb' (4 * (64 - k)) 4).toNat) := by
  rw [commandDigits_getElem? c h, toNat_div_pow_mod]

theorem commandDigits_op (c : Command) : (commandDigits c)[0]? = some (hexDigit c.op.toNat) := by
  rw [commandDigits_eq_bits c (by omega), extractLsb'_word_op]

/-- Digits 1 to 32 are those of `a`. -/
theorem commandDigits_a (c : Command) {k : Nat} (h : k < 32) :
    (commandDigits c)[1 + k]? = some (hexDigit (c.a.extractLsb' (124 - 4 * k) 4).toNat) := by
  rw [commandDigits_eq_bits c (by omega), show 4 * (64 - (1 + k)) = 128 + (124 - 4 * k) by omega,
    extractLsb'_word_a c (by omega)]

/-- Digits 33 to 64 are those of `b`. -/
theorem commandDigits_b (c : Command) {k : Nat} (h : k < 32) :
    (commandDigits c)[33 + k]? = some (hexDigit (c.b.extractLsb' (124 - 4 * k) 4).toNat) := by
  rw [commandDigits_eq_bits c (by omega), show 4 * (64 - (33 + k)) = 124 - 4 * k by omega,
    extractLsb'_word_b c (by omega)]

/-- The first digit of byte `i` of a port value: its digit `2i` from the top (R86). -/
theorem portByte_div_16 (p : PortWord) {i : Nat} (h : i < 16) :
    (portByte p i).toNat / 16 = (p.extractLsb' (124 - 4 * (2 * i)) 4).toNat := by
  rw [portByte, BitVec.extractLsb'_toNat, BitVec.extractLsb'_toNat,
    show 124 - 4 * (2 * i) = 120 - 8 * i + 4 by omega, Nat.shiftRight_add, Nat.shiftRight_eq_div_pow _ 4]
  omega

/-- The second digit of byte `i` of a port value: its digit `2i + 1` from the top (R86). -/
theorem portByte_mod_16 (p : PortWord) {i : Nat} (h : i < 16) :
    (portByte p i).toNat % 16 = (p.extractLsb' (124 - 4 * (2 * i + 1)) 4).toNat := by
  rw [portByte, BitVec.extractLsb'_toNat, BitVec.extractLsb'_toNat,
    show 124 - 4 * (2 * i + 1) = 120 - 8 * i by omega]
  omega

/-- The characters of the sixteen digits. -/
theorem hexDigit_spec : ∀ n < 16,
    ['0', '1', '2', '3', '4', '5', '6', '7', '8', '9', 'a', 'b', 'c', 'd', 'e', 'f'][n]? = some (hexDigit n) := by
  decide

/-- Settles O57: in each of the ten lines the operands' port values are the packed bytes, and the word's digits are read
off its fields. -/
theorem lineAssemblesToItsCommandWord : Obligations.LineAssemblesToItsCommandWord := by
  rintro names target v w none16 digit ⟨m, op, oa, ob, a, b⟩ hx
  obtain ⟨rfl, ha, hb⟩ : m.op = op ∧ oa.port names m.format.usesA = some (pack a) ∧
      ob.port names m.format.usesB = some (pack b) := by
    have hz : AsmOperand.ignored.port names false = some (pack none16) := port_ignored names
    simp only [List.mem_cons, List.not_mem_nil, or_false, Prod.mk.injEq] at hx
    rcases hx with h | h | h | h | h | h | h | h | h | h <;> obtain ⟨rfl, rfl, rfl, rfl, rfl, rfl⟩ := h
    · exact ⟨rfl, rfl, rfl⟩
    · exact ⟨rfl, hz, rfl⟩
    · exact ⟨rfl, rfl, hz⟩
    · exact ⟨rfl, rfl, hz⟩
    · exact ⟨rfl, rfl, hz⟩
    · exact ⟨rfl, rfl, rfl⟩
    · exact ⟨rfl, rfl, rfl⟩
    · exact ⟨rfl, rfl, hz⟩
    · exact ⟨rfl, rfl, hz⟩
    · exact ⟨rfl, rfl, hz⟩
  refine ⟨⟨m.op, pack a, pack b⟩, assemble_eq_some_iff.mpr ⟨_, _, ha, hb, rfl⟩, rfl, bytes_pack a, bytes_pack b,
    word_toNat _, commandDigits_length _, ?_, fun i hi => ?_⟩
  · exact (commandDigits_op _).trans (hexDigit_spec _ m.op.isLt).symm
  · have hai := (byteAt a i).isLt
    have hbi := (byteAt b i).isLt
    refine ⟨?_, ?_, ?_, ?_⟩
    · rw [commandDigits_a _ (by omega), ← portByte_div_16 _ hi, portByte_pack a hi]
      exact (hexDigit_spec _ (by omega)).symm
    · rw [show 2 + 2 * i = 1 + (2 * i + 1) by omega, commandDigits_a _ (by omega), ← portByte_mod_16 _ hi,
        portByte_pack a hi]
      exact (hexDigit_spec _ (by omega)).symm
    · rw [commandDigits_b _ (by omega), ← portByte_div_16 _ hi, portByte_pack b hi]
      exact (hexDigit_spec _ (by omega)).symm
    · rw [show 34 + 2 * i = 33 + (2 * i + 1) by omega, commandDigits_b _ (by omega), ← portByte_mod_16 _ hi,
        portByte_pack b hi]
      exact (hexDigit_spec _ (by omega)).symm

end Sys2Proof.Machine
end

section
/-! PROOFS. Field arithmetic: `xtime` and `multiply` are XOR-linear and commute with each other, and every byte is reached
from 0 by `xtime` and by adding 1; the field's laws follow by induction on the bytes (40_field_arithmetic.md R111-R115). -/

namespace Sys2Proof.Machine

/-! ## xtime -/

/-- A conditional summand is additive in its condition. -/
theorem xor_ite_xor (b c : Bool) (x y z : Byte) :
    (x ^^^ y) ^^^ (if (b ^^ c) then z else 0) = (x ^^^ if b then z else 0) ^^^ (y ^^^ if c then z else 0) := by
  have swap : (x ^^^ z) ^^^ (y ^^^ if c then z else 0) = (x ^^^ y) ^^^ (z ^^^ if c then z else 0) := by ac_rfl
  cases b
  · simp [BitVec.xor_assoc]
  · rw [if_pos rfl, swap]
    cases c <;> simp

theorem xtime_eq_xor_ite (x : Byte) : xtime x = x <<< 1 ^^^ if x.getLsbD 7 then 0x1B else 0 := by
  unfold xtime
  split
  · rfl
  · exact BitVec.xor_zero.symm

theorem xtime_of_top_bit {x : Byte} (h : x.getLsbD 7 = true) : xtime x = (x <<< 1) ^^^ 0x1B := if_pos h

theorem xtime_of_no_top_bit {x : Byte} (h : x.getLsbD 7 = false) : xtime x = x <<< 1 :=
  if_neg (ne_true_of_eq_false h)

/-- `xtime` is additive. -/
theorem xtime_xor (x y : Byte) : xtime (x ^^^ y) = xtime x ^^^ xtime y := by
  simp only [xtime_eq_xor_ite, BitVec.shiftLeft_xor_distrib, BitVec.getLsbD_xor, xor_ite_xor]

theorem xtime_zero : xtime 0 = 0 := rfl

/-- The right shift is undone by `xtime`, up to the bit that the shift drops. -/
theorem xtime_ushiftRight_one (y : Byte) : xtime (y >>> 1) = y ^^^ if y.getLsbD 0 then 1 else 0 := by
  rw [xtime_of_no_top_bit (by simp)]
  ext i hi
  cases i with
  | zero => cases h : y[0] <;> simp [h]
  | succ i => split <;> simp [Nat.add_comm 1 i, BitVec.getLsbD_eq_getElem hi]

/-- Horner's rule as an induction principle: the bytes are generated from 0 by `xtime` and by adding 1. -/
theorem byte_induction {motive : Byte → Prop} (zero : motive 0) (xtime : ∀ y, motive y → motive (xtime y))
    (xor_one : ∀ y, motive y → motive (y ^^^ 1)) (y : Byte) : motive y := by
  by_cases hy : y = 0
  · exact hy ▸ zero
  · have hlt : (y >>> 1).toNat < y.toNat := by bv_omega
    have h := xtime _ (byte_induction zero xtime xor_one (y >>> 1))
    rw [xtime_ushiftRight_one] at h
    split at h
    · simpa [BitVec.xor_assoc] using xor_one _ h
    · simpa using h
termination_by y.toNat

/-! ## multiply -/

/-- One iteration as an addition, of 0 where bit 0 of the second factor is clear (R112). -/
theorem multiplyLoop_succ (n : Nat) (p x y : Byte) :
    multiplyLoop (n + 1) p x y = multiplyLoop n (p ^^^ if y.getLsbD 0 then x else 0) (xtime x) (y >>> 1) := by
  rw [multiplyLoop]
  split
  · rfl
  · simp

theorem multiplyLoop_xor_left (n : Nat) (p q x x' y : Byte) :
    multiplyLoop n (p ^^^ q) (x ^^^ x') y = multiplyLoop n p x y ^^^ multiplyLoop n q x' y := by
  induction n generalizing p q x x' y with
  | zero => rfl
  | succ n ih =>
    simp only [multiplyLoop_succ, xtime_xor, ← ih]
    congr 1
    split
    · ac_rfl
    · simp

theorem multiplyLoop_xor_right (n : Nat) (p q x y z : Byte) :
    multiplyLoop n (p ^^^ q) x (y ^^^ z) = multiplyLoop n p x y ^^^ multiplyLoop n q x z := by
  induction n generalizing p q x y z with
  | zero => rfl
  | succ n ih =>
    simp only [multiplyLoop_succ, BitVec.ushiftRight_xor_distrib, BitVec.getLsbD_xor, xor_ite_xor, ih]

theorem multiplyLoop_xtime (n : Nat) (p x y : Byte) :
    multiplyLoop n (xtime p) (xtime x) y = xtime (multiplyLoop n p x y) := by
  induction n generalizing p x y with
  | zero => rfl
  | succ n ih =>
    rw [multiplyLoop_succ, multiplyLoop_succ, ← ih, xtime_xor]
    split <;> rfl

theorem multiply_xor_left (x x' y : Byte) : multiply (x ^^^ x') y = multiply x y ^^^ multiply x' y :=
  multiplyLoop_xor_left 8 0 0 x x' y

theorem multiply_xor_right (x y z : Byte) : multiply x (y ^^^ z) = multiply x y ^^^ multiply x z :=
  multiplyLoop_xor_right 8 0 0 x y z

theorem multiply_xtime_left (x y : Byte) : multiply (xtime x) y = xtime (multiply x y) :=
  multiplyLoop_xtime 8 0 x y

theorem multiply_zero_left (y : Byte) : multiply 0 y = 0 := by
  simpa using multiply_xor_left 0 0 y

theorem multiply_zero_right (x : Byte) : multiply x 0 = 0 := by
  simpa using multiply_xor_right x 0 0

/-- The powers of 2 up to bit 7 need no reduction: the eight iterations rebuild `y`, by evaluation at every byte. -/
theorem multiply_one_left (y : Byte) : multiply 1 y = y := by
  decide +revert

theorem multiply_one_right (x : Byte) : multiply x 1 = x := by
  simp [multiply, multiplyLoop]

theorem multiply_xtime_right (x y : Byte) : multiply x (xtime y) = xtime (multiply x y) := by
  induction x using byte_induction with
  | zero => rw [multiply_zero_left, multiply_zero_left, xtime_zero]
  | xtime x ih => rw [multiply_xtime_left, multiply_xtime_left, ih]
  | xor_one x ih => rw [multiply_xor_left, multiply_xor_left, ih, xtime_xor, multiply_one_left, multiply_one_left]

theorem multiply_comm (x y : Byte) : multiply x y = multiply y x := by
  induction x using byte_induction with
  | zero => rw [multiply_zero_left, multiply_zero_right]
  | xtime x ih => rw [multiply_xtime_left, multiply_xtime_right, ih]
  | xor_one x ih => rw [multiply_xor_left, multiply_xor_right, ih, multiply_one_left, multiply_one_right]

theorem multiply_assoc (x y z : Byte) : multiply (multiply x y) z = multiply x (multiply y z) := by
  induction x using byte_induction with
  | zero => simp only [multiply_zero_left]
  | xtime x ih => simp only [multiply_xtime_left, ih]
  | xor_one x ih => simp only [multiply_xor_left, multiply_one_left, ih]

/-! ## Powers of two as factors -/

theorem multiply_two (x : Byte) : multiply x 2 = xtime x := by
  rw [show (2 : Byte) = xtime 1 from rfl, multiply_xtime_right, multiply_one_right]

theorem multiply_four (x : Byte) : multiply x 4 = xtime (xtime x) := by
  rw [show (4 : Byte) = xtime 2 from rfl, multiply_xtime_right, multiply_two]

theorem multiply_eight (x : Byte) : multiply x 8 = xtime (xtime (xtime x)) := by
  rw [show (8 : Byte) = xtime 4 from rfl, multiply_xtime_right, multiply_four]

/-! ## Inverses -/

/-- `y` to the power 254, the inverse of `y ≠ 0` in a field of 256 elements: the power 127 by six steps `b ↦ y * b * b`,
then squared. -/
def fieldInverse (y : Byte) : Byte :=
  let b := (fun b => multiply y (multiply b b))^[6] y
  multiply b b

/-- By evaluation at every byte. -/
theorem multiply_fieldInverse : ∀ {y : Byte}, y ≠ 0 → multiply y (fieldInverse y) = 1 := by
  decide +kernel

/-- No zero divisors: the second factor has an inverse, or is 0. -/
theorem multiply_eq_zero_iff (x y : Byte) : multiply x y = 0 ↔ x = 0 ∨ y = 0 := by
  constructor
  · intro h
    by_cases hy : y = 0
    · exact .inr hy
    · left
      calc x = multiply x (multiply y (fieldInverse y)) := by rw [multiply_fieldInverse hy, multiply_one_right]
        _ = multiply (multiply x y) (fieldInverse y) := (multiply_assoc ..).symm
        _ = 0 := by rw [h, multiply_zero_left]
  · rintro (rfl | rfl)
    · exact multiply_zero_left y
    · exact multiply_zero_right x

/-- Settles O49: the field's laws, with 2 as `xtime 1`. -/
theorem multiplyIsTheFieldProduct : Obligations.MultiplyIsTheFieldProduct := fun x y z =>
  ⟨multiply_zero_right x, multiply_zero_left y, multiply_one_right x, multiply_two x,
    multiply_comm x y, multiply_xor_right x y z, multiply_xtime_right x y, multiply_eq_zero_iff x y⟩

/-! ## xtime as a reduction and a bijection -/

/-- Dividing by 2 is multiplying by 0x8D, since `xtime 0x8D = 1`. -/
theorem xtime_multiply_8d (x : Byte) : xtime (multiply 0x8D x) = x := by
  rw [← multiply_xtime_left, show xtime 0x8D = 1 from rfl, multiply_one_left]

theorem xtime_bijective : Function.Bijective xtime :=
  Function.bijective_iff_has_inverse.mpr
    ⟨multiply 0x8D, fun x => (multiply_xtime_right _ x).trans (xtime_multiply_8d x), xtime_multiply_8d⟩

theorem xtime_eq_reduced (x : Byte) :
    xtime x = (let y : BitVec 9 := x.setWidth 9 <<< 1; if y.getLsbD 8 then y ^^^ 0x11B else y).setWidth 8 := by
  have h8 : (x.setWidth 9 <<< 1).getLsbD 8 = x.getLsbD 7 := by simp
  simp only [h8]
  cases h : x.getLsbD 7
  · simp [xtime_of_no_top_bit h]
  · simp [xtime_of_top_bit h]

/-- Settles O48: by the two branches of `xtime`, and division by 2 as its inverse. -/
theorem xtimeReducesTheShiftBy11B : Obligations.XtimeReducesTheShiftBy11B :=
  ⟨fun x => ⟨xtime_of_top_bit, xtime_of_no_top_bit, xtime_eq_reduced x⟩, xtime_bijective⟩

/-! ## The constant multipliers -/

theorem mul3_eq_multiply (x : Byte) : mul3 x = multiply x 3 := by
  rw [show (3 : Byte) = 2 ^^^ 1 from rfl, multiply_xor_right, multiply_two, multiply_one_right, mul3]

theorem mul9_eq_multiply (x : Byte) : mul9 x = multiply x 9 := by
  rw [show (9 : Byte) = 8 ^^^ 1 from rfl, multiply_xor_right, multiply_eight, multiply_one_right, mul9]

theorem mul11_eq_multiply (x : Byte) : mul11 x = multiply x 11 := by
  rw [show (11 : Byte) = 8 ^^^ 2 ^^^ 1 from rfl, multiply_xor_right, multiply_xor_right, multiply_eight, multiply_two,
    multiply_one_right, mul11]

theorem mul13_eq_multiply (x : Byte) : mul13 x = multiply x 13 := by
  rw [show (13 : Byte) = 8 ^^^ 4 ^^^ 1 from rfl, multiply_xor_right, multiply_xor_right, multiply_eight, multiply_four,
    multiply_one_right, mul13]

theorem mul14_eq_multiply (x : Byte) : mul14 x = multiply x 14 := by
  rw [show (14 : Byte) = 8 ^^^ 4 ^^^ 2 from rfl, multiply_xor_right, multiply_xor_right, multiply_eight, multiply_four,
    multiply_two, mul14]

/-- Settles O50: each constant is a sum of powers of 2, and multiplying by a power of 2 is iterating `xtime`. -/
theorem constantMultipliersEqualMultiply : Obligations.ConstantMultipliersEqualMultiply := fun x =>
  ⟨rfl, rfl, (multiply_two x).symm, mul3_eq_multiply x, mul9_eq_multiply x, mul11_eq_multiply x, mul13_eq_multiply x,
    mul14_eq_multiply x⟩

end Sys2Proof.Machine
end

section
/-! PROOFS. The constant tables: what holds of their printed entries is evaluated at every index, and the rest follows by
counting and by undoing the affine map (41_substitution_tables.md R131-R135). -/

namespace Sys2Proof.Machine

/-! ## SBOX and INV_SBOX -/

/-- INV_SBOX undoes SBOX, by evaluation at every byte. -/
theorem invSbox_leftInverse : Function.LeftInverse invSbox sbox := by
  unfold Function.LeftInverse
  decide +kernel

/-- SBOX takes 256 different values, so it takes every value, and INV_SBOX is its inverse on the other side too. -/
theorem invSbox_rightInverse : Function.RightInverse invSbox sbox :=
  invSbox_leftInverse.rightInverse_of_surjective (Finite.surjective_of_injective invSbox_leftInverse.injective)

/-- Settles O51: one side by evaluation, the other by counting. -/
theorem substitutionTablesAreMutualInverses : Obligations.SubstitutionTablesAreMutualInverses := fun x =>
  ⟨invSbox_leftInverse x, invSbox_rightInverse x⟩

/-- The inverse of the affine map of R132: `rotl8(y,1) ^ rotl8(y,3) ^ rotl8(y,6) ^ 0x05`. -/
def sboxAffineInverse (y : Byte) : Byte := y.rotateLeft 1 ^^^ y.rotateLeft 3 ^^^ y.rotateLeft 6 ^^^ 0x05

theorem sboxAffine_sboxAffineInverse : ∀ y : Byte, sboxAffine (sboxAffineInverse y) = y := by
  decide +kernel

/-- With the affine map undone an entry is the field inverse of its index: by evaluation at every byte, one product
each, where `fieldInverse` would take thirteen. -/
theorem multiply_sboxAffineInverse_sbox : ∀ {x : Byte}, x ≠ 0 → multiply x (sboxAffineInverse (sbox x)) = 1 := by
  decide +kernel

/-- Settles O52: entry 0 is the map's constant, and any other entry is the image of what undoing the map leaves of it. -/
theorem sboxIsTheAffineImageOfTheInverse : Obligations.SboxIsTheAffineImageOfTheInverse := by
  constructor
  · rfl
  · intro x hx
    exact ⟨_, multiply_sboxAffineInverse_sbox hx, (sboxAffine_sboxAffineInverse (sbox x)).symm⟩

/-- Settles O53: by inspection of the table at every byte, as R134 derives it. -/
theorem sboxHasNoFixedPoint : Obligations.SboxHasNoFixedPoint := by
  unfold Obligations.SboxHasNoFixedPoint
  decide +kernel

/-! ## RCON -/

/-- One doubling per entry; the reduction by 0x11B enters at entry 9. -/
theorem rcon_succ_eq_xtime {i : Nat} (h1 : 1 ≤ i) (h9 : i ≤ 9) : rcon (i + 1) = xtime (rcon i) := by
  interval_cases i <;> rfl

/-- Settles O54: the first two entries are read off, the others follow by `xtime`. -/
theorem roundConstantsArePowersOfTwo : Obligations.RoundConstantsArePowersOfTwo :=
  ⟨rfl, rfl, fun _ => rcon_succ_eq_xtime⟩

end Sys2Proof.Machine
end

section
/-! PROOFS. The single-transform commands: what they touch and answer, and what the forward transforms do to a State
(42_round_transforms_forward.md R140 to R149; 43_round_transforms_inverse.md R164, R166). -/

namespace Sys2Proof.Machine

/-! ## The answer of a single-transform command -/

/-- The commands of formats S and SK are the single-transform commands (R83, R140). -/
theorem exec_of_transform_format {i : Instr} (h : i.format = .S ∨ i.format = .SK) (s : State) :
    exec i s = .next (State.transformCommand (encode i) (xformOf (encode i)) s) := by
  cases i with
  | enc | dec | expandkey => simp [Instr.format] at h
  | _ => rfl

/-- Settles O24: the command is load, transform and emit, which write S and the response alone. -/
theorem transformCommandsTouchOnlyS : Obligations.TransformCommandsTouchOnlyS := by
  intro s i hi
  obtain ⟨hS, hr, hp, herr, hcap, hK, hW, hT, hRND, hPOS, hRCI, hhost⟩ :=
    transformCommand_spec (encode i) (xformOf (encode i)) s
  refine ⟨_, exec_of_transform_format hi s, hp, herr, hcap, hS, by rw [hr, hS], hK, hW, hT, hRND, hPOS, hRCI, hhost,
    fun x => ?_, fun _ => memRead_rom _ _⟩
  rw [State.memRead_sched, State.memRead_sched, hW]

/-- What the host sees of a single-transform command: DONE with `err = 0`, and the transform of the operand on `r` and in
S (R140). -/
theorem exec_transform_answer {i : Instr} (h : i.format = .S ∨ i.format = .SK) (s : State) :
    ∃ t, exec i s = .next t ∧ t.PHASE = .done ∧ t.err = false ∧ t.S = bytes t.r ∧
      t.r = pack (xformOf (encode i) (bytes (encode i).a)) := by
  obtain ⟨t, ht, hp, herr, -, hS, hr, -⟩ := transformCommandsTouchOnlyS s i h
  exact ⟨t, ht, hp, herr, by rw [hr, bytes_pack], by rw [hr, hS]⟩

/-! ## SubBytes -/

theorem portByte_pack_subBytes (a : PortWord) {i : Nat} (h : i < 16) :
    portByte (pack (subBytes (bytes a))) i = sbox (portByte a i) := by
  rw [portByte_pack _ h, byteAt_subBytes _ h, byteAt_bytes _ h]

/-- SubBytes leaves no State as it is, since SBOX has no fixed point (R134, R141). -/
theorem pack_subBytes_ne (a : PortWord) : pack (subBytes (bytes a)) ≠ a := by
  intro h
  have hfix : sbox (portByte a 0) = portByte a 0 := by rw [← portByte_pack_subBytes a (by decide), h]
  exact (sboxHasNoFixedPoint (portByte a 0)).1 hfix

/-- Settles O29: byte by byte on the port; the two corner cases are evaluated. -/
theorem subBytesReplacesEachByte : Obligations.SubBytesReplacesEachByte := by
  intro s a b
  refine ⟨decode_encode (.subbytes a b), ?_⟩
  obtain ⟨t, ht, hp, herr, hS, hr⟩ := exec_transform_answer (i := .subbytes a b) (.inl rfl) s
  change t.r = pack (subBytes (bytes a)) at hr
  refine ⟨t, ht, hp, herr, hS, ?_⟩
  rw [hr]
  refine ⟨fun _ => portByte_pack_subBytes a, pack_subBytes_ne a, ?_, ?_⟩
  · rintro rfl
    decide +kernel
  · rintro rfl
    decide +kernel

/-! ## ShiftRows and InvShiftRows -/

/-- ShiftRows by row and column (R143). -/
theorem byteAt_shiftRows_row_column (v : Block) {r c : Nat} (hr : r < 4) (hc : c < 4) :
    byteAt (shiftRows v) (r + 4 * c) = byteAt v (r + 4 * ((c + r) % 4)) := by
  rw [byteAt_shiftRows _ (by omega)]
  congr 1
  omega

/-- ShiftRows by index (R144). -/
theorem byteAt_shiftRows_index (v : Block) {i : Nat} (h : i < 16) : byteAt (shiftRows v) i = byteAt v (5 * i % 16) := by
  rw [byteAt_shiftRows _ h]
  congr 1
  omega

/-- InvShiftRows by index (R164). -/
theorem byteAt_invShiftRows_index (v : Block) {i : Nat} (h : i < 16) :
    byteAt (invShiftRows v) i = byteAt v (13 * i % 16) := by
  rw [byteAt_invShiftRows _ h]
  congr 1
  omega

/-- Settles O30, by row and column on the port. -/
theorem shiftRowsRotatesRowsLeft : Obligations.ShiftRowsRotatesRowsLeft := by
  intro s a b
  refine ⟨decode_encode (.shiftrows a b), ?_⟩
  obtain ⟨t, ht, hp, herr, hS, hr⟩ := exec_transform_answer (i := .shiftrows a b) (.inl rfl) s
  change t.r = pack (shiftRows (bytes a)) at hr
  refine ⟨t, ht, hp, herr, hS, fun r c hr4 hc4 => ?_⟩
  rw [hr, portByte_pack _ (by omega), byteAt_shiftRows_row_column _ hr4 hc4, byteAt_bytes _ (by omega)]

/-- `5 * 13 ≡ 1` modulo 16. -/
theorem invShiftRows_shiftRows (v : Block) : invShiftRows (shiftRows v) = v :=
  byteVector_ext fun i hi => by
    rw [byteAt_invShiftRows_index _ hi, byteAt_shiftRows_index _ (by omega), show 5 * (13 * i % 16) % 16 = i by omega]

theorem shiftRows_invShiftRows (v : Block) : shiftRows (invShiftRows v) = v :=
  byteVector_ext fun i hi => by
    rw [byteAt_shiftRows_index _ hi, byteAt_invShiftRows_index _ (by omega), show 13 * (5 * i % 16) % 16 = i by omega]

/-- `5 * 5 ≡ 9` modulo 16: two ShiftRows rotate row `r` by `2r`. -/
theorem byteAt_shiftRows_shiftRows (v : Block) {i : Nat} (h : i < 16) :
    byteAt (shiftRows (shiftRows v)) i = byteAt v (9 * i % 16) := by
  rw [byteAt_shiftRows_index _ h, byteAt_shiftRows_index _ (by omega), show 5 * (5 * i % 16) % 16 = 9 * i % 16 by omega]

/-- `9 * 9 ≡ 1` modulo 16: four ShiftRows are the identity. -/
theorem shiftRows_four_times (v : Block) : shiftRows (shiftRows (shiftRows (shiftRows v))) = v :=
  byteVector_ext fun i hi => by
    rw [byteAt_shiftRows_shiftRows _ hi, byteAt_shiftRows_shiftRows _ (by omega),
      show 9 * (9 * i % 16) % 16 = i by omega]

/-- One ShiftRows of the four is undone by InvShiftRows, so the other three are InvShiftRows (R164). -/
theorem invShiftRows_eq_shiftRows_three_times (v : Block) : invShiftRows v = shiftRows (shiftRows (shiftRows v)) := by
  calc invShiftRows v = invShiftRows (shiftRows (shiftRows (shiftRows (shiftRows v)))) := by rw [shiftRows_four_times]
    _ = shiftRows (shiftRows (shiftRows v)) := invShiftRows_shiftRows _

/-- A State with equal bytes in each row is unchanged by ShiftRows, which keeps each byte's row (R144). -/
theorem shiftRows_of_equal_rows {v : Block} (h : ∀ i, i < 16 → byteAt v i = byteAt v (i % 4)) : shiftRows v = v :=
  byteVector_ext fun i hi => by
    rw [byteAt_shiftRows_index _ hi, h _ (by omega), h i hi, show 5 * i % 16 % 4 = i % 4 by omega]

/-- Settles O31: the indices of R144 and R164, and arithmetic modulo 16. -/
theorem rowShiftsAreIndexPermutations : Obligations.RowShiftsAreIndexPermutations := by
  refine ⟨fun v i hi => ⟨byteAt_shiftRows_index v hi, byteAt_invShiftRows_index v hi⟩,
    fun v => ⟨invShiftRows_shiftRows v, shiftRows_invShiftRows v, shiftRows_four_times v,
      invShiftRows_eq_shiftRows_three_times v⟩, fun v h => ?_⟩
  have hfix := shiftRows_of_equal_rows h
  exact ⟨hfix, by rw [invShiftRows_eq_shiftRows_three_times, hfix, hfix, hfix]⟩

/-! ## MixColumns and InvMixColumns as circulant matrices -/

/-- Row `r` of the circulant matrix with first row `k0 k1 k2 k3`, applied to a column: each row is the one above it,
rotated right. -/
def circulantRow (k0 k1 k2 k3 : Byte) (r : Nat) (x0 x1 x2 x3 : Byte) : Byte :=
  match r with
  | 0 => multiply x0 k0 ^^^ multiply x1 k1 ^^^ multiply x2 k2 ^^^ multiply x3 k3
  | 1 => multiply x0 k3 ^^^ multiply x1 k0 ^^^ multiply x2 k1 ^^^ multiply x3 k2
  | 2 => multiply x0 k2 ^^^ multiply x1 k3 ^^^ multiply x2 k0 ^^^ multiply x3 k1
  | _ => multiply x0 k1 ^^^ multiply x1 k2 ^^^ multiply x2 k3 ^^^ multiply x3 k0

theorem mul2_eq_multiply (x : Byte) : mul2 x = multiply x 2 := (multiply_two x).symm

/-- The matrix of R146. -/
theorem mixRow_eq_circulantRow : mixRow = circulantRow 2 3 1 1 := by
  funext r x0 x1 x2 x3
  rcases r with _ | _ | _ | r <;>
    simp only [mixRow, circulantRow, mul2_eq_multiply, mul3_eq_multiply, multiply_one_right]

/-- The matrix of R165. -/
theorem invMixRow_eq_circulantRow : invMixRow = circulantRow 14 11 13 9 := by
  funext r x0 x1 x2 x3
  rcases r with _ | _ | _ | r <;>
    simp only [invMixRow, circulantRow, mul9_eq_multiply, mul11_eq_multiply, mul13_eq_multiply, mul14_eq_multiply]

theorem circulantRow_xor (k0 k1 k2 k3 : Byte) (r : Nat) (x0 x1 x2 x3 y0 y1 y2 y3 : Byte) :
    circulantRow k0 k1 k2 k3 r (x0 ^^^ y0) (x1 ^^^ y1) (x2 ^^^ y2) (x3 ^^^ y3) =
      circulantRow k0 k1 k2 k3 r x0 x1 x2 x3 ^^^ circulantRow k0 k1 k2 k3 r y0 y1 y2 y3 := by
  rcases r with _ | _ | _ | r <;> simp only [circulantRow, multiply_xor_left] <;> ac_rfl

/-- On four equal bytes every row multiplies by the sum of the coefficients. -/
theorem circulantRow_equal_bytes (k0 k1 k2 k3 : Byte) (r : Nat) (x : Byte) :
    circulantRow k0 k1 k2 k3 r x x x x = multiply x (k0 ^^^ k1 ^^^ k2 ^^^ k3) := by
  rcases r with _ | _ | _ | r <;> simp only [circulantRow, multiply_xor_right] <;> ac_rfl

/-- A column transform on a port value, byte by byte (R146, R165). -/
theorem portByte_pack_mapColumns (f : Nat → Byte → Byte → Byte → Byte → Byte) (a : PortWord) {c r : Nat} (hc : c < 4)
    (hr : r < 4) :
    portByte (pack (mapColumns f (bytes a))) (4 * c + r) =
      f r (portByte a (4 * c)) (portByte a (4 * c + 1)) (portByte a (4 * c + 2)) (portByte a (4 * c + 3)) := by
  rw [portByte_pack _ (by omega), byteAt_mapColumns f _ hc hr, byteAt_bytes _ (by omega), byteAt_bytes _ (by omega),
    byteAt_bytes _ (by omega), byteAt_bytes _ (by omega)]

/-- Settles O32: row by row, with the constants 1 of the matrix multiplied out. -/
theorem mixColumnsAppliesTheMatrix : Obligations.MixColumnsAppliesTheMatrix := by
  intro s a b
  refine ⟨decode_encode (.mixcolumns a b), ?_⟩
  obtain ⟨t, ht, hp, herr, hS, hr⟩ := exec_transform_answer (i := .mixcolumns a b) (.inl rfl) s
  change t.r = pack (mapColumns mixRow (bytes a)) at hr
  refine ⟨t, ht, hp, herr, hS, fun c hc => ?_⟩
  have row : ∀ r, r < 4 → portByte t.r (4 * c + r) = circulantRow 2 3 1 1 r (portByte a (4 * c))
      (portByte a (4 * c + 1)) (portByte a (4 * c + 2)) (portByte a (4 * c + 3)) := fun r hr4 => by
    rw [hr, portByte_pack_mapColumns _ _ hc hr4, mixRow_eq_circulantRow]
  have row0 := row 0 (by decide)
  have row1 := row 1 (by decide)
  have row2 := row 2 (by decide)
  have row3 := row 3 (by decide)
  simp only [circulantRow, multiply_one_right] at row0 row1 row2 row3
  exact ⟨row0, row1, row2, row3⟩

/-- A transform by a circulant matrix is additive, since XOR acts on each byte apart (R147). -/
theorem mapColumns_circulantRow_addRoundKey (k0 k1 k2 k3 : Byte) (x y : Block) :
    mapColumns (circulantRow k0 k1 k2 k3) (addRoundKey x y) =
      addRoundKey (mapColumns (circulantRow k0 k1 k2 k3) x) (mapColumns (circulantRow k0 k1 k2 k3) y) :=
  byteVector_ext fun i hi => by
    obtain ⟨c, r, hc, hr, rfl⟩ : ∃ c r, c < 4 ∧ r < 4 ∧ i = 4 * c + r := ⟨i / 4, i % 4, by omega, by omega, by omega⟩
    rw [byteAt_addRoundKey _ _ hi, byteAt_mapColumns _ _ hc hr, byteAt_mapColumns _ _ hc hr, byteAt_mapColumns _ _ hc hr,
      byteAt_addRoundKey _ _ (by omega), byteAt_addRoundKey _ _ (by omega), byteAt_addRoundKey _ _ (by omega),
      byteAt_addRoundKey _ _ (by omega), circulantRow_xor]

/-- Where the coefficients of a row sum to 1, a column of four equal bytes is kept (R147). -/
theorem byteAt_mapColumns_circulantRow_of_equal_bytes {k0 k1 k2 k3 : Byte} (hk : k0 ^^^ k1 ^^^ k2 ^^^ k3 = 1) {v : Block}
    {c : Nat} (hc : c < 4)
    (hv : byteAt v (4 * c) = byteAt v (4 * c + 1) ∧ byteAt v (4 * c) = byteAt v (4 * c + 2) ∧
      byteAt v (4 * c) = byteAt v (4 * c + 3)) {r : Nat} (hr : r < 4) :
    byteAt (mapColumns (circulantRow k0 k1 k2 k3) v) (4 * c + r) = byteAt v (4 * c) := by
  obtain ⟨h1, h2, h3⟩ := hv
  rw [byteAt_mapColumns _ _ hc hr, ← h1, ← h2, ← h3, circulantRow_equal_bytes, hk, multiply_one_right]

/-- Settles O38: both matrices are circulant with rows that sum to 1. -/
theorem columnTransformsAreLinear : Obligations.ColumnTransformsAreLinear := by
  simp only [Obligations.ColumnTransformsAreLinear, mixColumns, invMixColumns, mixRow_eq_circulantRow,
    invMixRow_eq_circulantRow]
  exact ⟨fun x y => ⟨mapColumns_circulantRow_addRoundKey 2 3 1 1 x y, mapColumns_circulantRow_addRoundKey 14 11 13 9 x y⟩,
    fun v c hc hv r hr => ⟨byteAt_mapColumns_circulantRow_of_equal_bytes rfl hc hv hr,
      byteAt_mapColumns_circulantRow_of_equal_bytes rfl hc hv hr⟩⟩

/-! ## AddRoundKey -/

theorem portByte_xor (a b : PortWord) (i : Nat) : portByte (a ^^^ b) i = portByte a i ^^^ portByte b i :=
  BitVec.extractLsb'_xor

/-- On the ports AddRoundKey is one XOR (R149). -/
theorem pack_addRoundKey (a b : PortWord) : pack (addRoundKey (bytes a) (bytes b)) = a ^^^ b :=
  portWord_ext fun i hi => by
    rw [portByte_pack _ hi, byteAt_addRoundKey _ _ hi, byteAt_bytes _ hi, byteAt_bytes _ hi, portByte_xor]

/-- ADDROUNDKEY as the host sees it (R149). -/
theorem exec_addroundkey_answer (a b : PortWord) (s : State) :
    ∃ t, exec (.addroundkey a b) s = .next t ∧ t.PHASE = .done ∧ t.err = false ∧ t.S = bytes t.r ∧ t.r = a ^^^ b := by
  obtain ⟨t, ht, hp, herr, hS, hr⟩ := exec_transform_answer (i := .addroundkey a b) (.inr rfl) s
  exact ⟨t, ht, hp, herr, hS, hr.trans (pack_addRoundKey a b)⟩

/-- Settles O33: XOR is byte by byte and its own inverse. -/
theorem addRoundKeyIsXorAndItsOwnInverse : Obligations.AddRoundKeyIsXorAndItsOwnInverse := by
  intro s s' a b
  refine ⟨decode_encode (.addroundkey a b), ?_⟩
  obtain ⟨t, ht, hp, herr, hS, hr⟩ := exec_addroundkey_answer a b s
  obtain ⟨u, hu, -, -, -, hur⟩ := exec_addroundkey_answer t.r b s'
  refine ⟨t, u, ht, hp, herr, hS, fun i _ => by rw [hr, portByte_xor], hr, hu, ?_⟩
  rw [hur, hr, BitVec.xor_assoc, BitVec.xor_self, BitVec.xor_zero]

end Sys2Proof.Machine
end

section
/-! PROOFS. The inverse transforms: their commands, the transforms they undo, and which transforms commute
(43_round_transforms_inverse.md R161 to R167). -/

namespace Sys2Proof.Machine

/-! ## Commands that compute and undo a transform -/

/-- The commands `mk a b` answer with the transform `f` of `a`, in S and on `r`, whatever state they start from (R140). -/
def Computes (mk : PortWord → PortWord → Instr) (f : Block → Block) : Prop :=
  ∀ (a b : PortWord) (s : State), ∃ t, exec (mk a b) s = .next t ∧ t.PHASE = .done ∧ t.err = false ∧
    t.S = bytes t.r ∧ t.r = pack (f (bytes a))

theorem subbytes_computes : Computes .subbytes subBytes := fun _ _ s => exec_transform_answer (.inl rfl) s

theorem shiftrows_computes : Computes .shiftrows shiftRows := fun _ _ s => exec_transform_answer (.inl rfl) s

theorem mixcolumns_computes : Computes .mixcolumns mixColumns := fun _ _ s => exec_transform_answer (.inl rfl) s

theorem invsubbytes_computes : Computes .invsubbytes invSubBytes := fun _ _ s => exec_transform_answer (.inl rfl) s

theorem invshiftrows_computes : Computes .invshiftrows invShiftRows := fun _ _ s => exec_transform_answer (.inl rfl) s

theorem invmixcolumns_computes : Computes .invmixcolumns invMixColumns := fun _ _ s =>
  exec_transform_answer (.inl rfl) s

/-- A command undoes on the port what its transform undoes on the State. -/
theorem Computes.undo {mk : PortWord → PortWord → Instr} {f g : Block → Block} (hmk : Computes mk g)
    (hgf : Function.LeftInverse g f) {a p : PortWord} (hp : p = pack (f (bytes a))) (b : PortWord) (s : State) :
    ∃ t, exec (mk p b) s = .next t ∧ t.r = a := by
  obtain ⟨t, ht, -, -, -, hr⟩ := hmk p b s
  exact ⟨t, ht, by rw [hr, hp, bytes_pack, hgf, pack_bytes]⟩

/-! ## InvSubBytes -/

theorem invSubBytes_subBytes : Function.LeftInverse invSubBytes subBytes := fun v =>
  byteVector_ext fun i hi => by rw [byteAt_invSubBytes _ hi, byteAt_subBytes _ hi, invSbox_leftInverse]

theorem subBytes_invSubBytes : Function.LeftInverse subBytes invSubBytes := fun v =>
  byteVector_ext fun i hi => by rw [byteAt_subBytes _ hi, byteAt_invSubBytes _ hi, invSbox_rightInverse]

/-- Settles O34: INV_SBOX and SBOX undo each other at every byte. -/
theorem invSubBytesUndoesSubBytes : Obligations.InvSubBytesUndoesSubBytes := by
  intro s s' a b b'
  refine ⟨decode_encode (.invsubbytes a b), ?_⟩
  obtain ⟨t, ht, hp, herr, hS, hr⟩ := invsubbytes_computes a b s
  obtain ⟨u, hu, hua⟩ := subbytes_computes.undo subBytes_invSubBytes hr b' s'
  obtain ⟨v, hv, -, -, -, hvr⟩ := subbytes_computes a b' s'
  refine ⟨t, u, v, ht, hp, herr, hS, fun i hi => ?_, hu, hua, hv, invsubbytes_computes.undo invSubBytes_subBytes hvr b s⟩
  rw [hr, portByte_pack _ hi, byteAt_invSubBytes _ hi, byteAt_bytes _ hi]

/-! ## InvShiftRows -/

/-- InvShiftRows by row and column: the column a byte of row `r` arrives at (R163). -/
theorem byteAt_invShiftRows_row_column (v : Block) {r c : Nat} (hr : r < 4) (hc : c < 4) :
    byteAt (invShiftRows v) (r + 4 * ((c + r) % 4)) = byteAt v (r + 4 * c) := by
  rw [byteAt_invShiftRows _ (by omega)]
  congr 1
  omega

/-- Settles O35, by row and column on the port. -/
theorem invShiftRowsRotatesRowsRight : Obligations.InvShiftRowsRotatesRowsRight := by
  intro s s' a b b'
  refine ⟨decode_encode (.invshiftrows a b), ?_⟩
  obtain ⟨t, ht, hp, herr, hS, hr⟩ := invshiftrows_computes a b s
  obtain ⟨u, hu, hua⟩ := shiftrows_computes.undo shiftRows_invShiftRows hr b' s'
  refine ⟨t, u, ht, hp, herr, hS, fun r c hr4 hc4 => ?_, hu, hua⟩
  rw [hr, portByte_pack _ (by omega), byteAt_invShiftRows_row_column _ hr4 hc4, byteAt_bytes _ (by omega)]

/-! ## InvMixColumns -/

/-- Settles O36: the matrix of R165 row by row. -/
theorem invMixColumnsAppliesTheInverseMatrix : Obligations.InvMixColumnsAppliesTheInverseMatrix := by
  intro s a b
  refine ⟨decode_encode (.invmixcolumns a b), ?_⟩
  obtain ⟨t, ht, hp, herr, hS, hr⟩ := invmixcolumns_computes a b s
  refine ⟨t, ht, hp, herr, hS, fun c hc => ?_⟩
  have row {r : Nat} (hr4 : r < 4) : portByte t.r (4 * c + r) = circulantRow 14 11 13 9 r (portByte a (4 * c))
      (portByte a (4 * c + 1)) (portByte a (4 * c + 2)) (portByte a (4 * c + 3)) := by
    rw [hr, invMixColumns, portByte_pack_mapColumns _ _ hc hr4, invMixRow_eq_circulantRow]
  exact ⟨row (r := 0) (by decide), row (r := 1) (by decide), row (r := 2) (by decide), row (r := 3) (by decide)⟩

/-- Two column transforms in turn: the second sees the four bytes that the first makes of the column. -/
theorem byteAt_mapColumns_mapColumns (f g : Nat → Byte → Byte → Byte → Byte → Byte) (v : Block) {c r : Nat} (hc : c < 4)
    (hr : r < 4) :
    let column (j : Nat) := g j (byteAt v (4 * c)) (byteAt v (4 * c + 1)) (byteAt v (4 * c + 2)) (byteAt v (4 * c + 3))
    byteAt (mapColumns f (mapColumns g v)) (4 * c + r) = f r (column 0) (column 1) (column 2) (column 3) := by
  have first := byteAt_mapColumns g v hc (r := 0) (by decide)
  rw [Nat.add_zero] at first
  rw [byteAt_mapColumns f _ hc hr, first, byteAt_mapColumns g v hc (by decide), byteAt_mapColumns g v hc (by decide),
    byteAt_mapColumns g v hc (by decide)]

/-- The product of two circulant matrices is circulant. Its first column is the first factor times `m0 m3 m2 m1`, the first
column of the second; its first row has the same bytes in the order 0, 3, 2, 1. -/
theorem circulantRow_circulantRow (k0 k1 k2 k3 m0 m1 m2 m3 : Byte) (r : Nat) (x0 x1 x2 x3 : Byte) :
    circulantRow k0 k1 k2 k3 r (circulantRow m0 m1 m2 m3 0 x0 x1 x2 x3) (circulantRow m0 m1 m2 m3 1 x0 x1 x2 x3)
        (circulantRow m0 m1 m2 m3 2 x0 x1 x2 x3) (circulantRow m0 m1 m2 m3 3 x0 x1 x2 x3) =
      circulantRow (circulantRow k0 k1 k2 k3 0 m0 m3 m2 m1) (circulantRow k0 k1 k2 k3 3 m0 m3 m2 m1)
        (circulantRow k0 k1 k2 k3 2 m0 m3 m2 m1) (circulantRow k0 k1 k2 k3 1 m0 m3 m2 m1) r x0 x1 x2 x3 := by
  rcases r with _ | _ | _ | r <;>
    simp only [circulantRow, multiply_xor_left, multiply_xor_right, multiply_assoc] <;> ac_rfl

/-- The circulant matrix with first row `1 0 0 0` is the identity. -/
theorem circulantRow_one_zero_zero_zero (v : Block) (c : Nat) {r : Nat} (hr : r < 4) :
    circulantRow 1 0 0 0 r (byteAt v (4 * c)) (byteAt v (4 * c + 1)) (byteAt v (4 * c + 2)) (byteAt v (4 * c + 3)) =
      byteAt v (4 * c + r) := by
  interval_cases r <;> simp only [circulantRow, multiply_one_right, multiply_zero_right] <;> simp

/-- Two circulant matrices undo each other where the first column of their product is that of the identity. -/
theorem mapColumns_circulantRow_leftInverse {k0 k1 k2 k3 m0 m1 m2 m3 : Byte}
    (h0 : circulantRow k0 k1 k2 k3 0 m0 m3 m2 m1 = 1) (h1 : circulantRow k0 k1 k2 k3 1 m0 m3 m2 m1 = 0)
    (h2 : circulantRow k0 k1 k2 k3 2 m0 m3 m2 m1 = 0) (h3 : circulantRow k0 k1 k2 k3 3 m0 m3 m2 m1 = 0) :
    Function.LeftInverse (mapColumns (circulantRow k0 k1 k2 k3)) (mapColumns (circulantRow m0 m1 m2 m3)) := fun v =>
  byteVector_ext fun i hi => by
    obtain ⟨c, r, hc, hr, rfl⟩ : ∃ c r, c < 4 ∧ r < 4 ∧ i = 4 * c + r := ⟨i / 4, i % 4, by omega, by omega, by omega⟩
    rw [byteAt_mapColumns_mapColumns _ _ v hc hr, circulantRow_circulantRow, h0, h1, h2, h3,
      circulantRow_one_zero_zero_zero v c hr]

/-- The first column of the product of the two matrices is evaluated (R166). -/
theorem invMixColumns_mixColumns : Function.LeftInverse invMixColumns mixColumns := by
  unfold invMixColumns mixColumns
  rw [invMixRow_eq_circulantRow, mixRow_eq_circulantRow]
  exact mapColumns_circulantRow_leftInverse rfl rfl rfl rfl

theorem mixColumns_invMixColumns : Function.LeftInverse mixColumns invMixColumns := by
  unfold invMixColumns mixColumns
  rw [invMixRow_eq_circulantRow, mixRow_eq_circulantRow]
  exact mapColumns_circulantRow_leftInverse rfl rfl rfl rfl

/-- Settles O37: the product of the two matrices is the identity in either order. -/
theorem invMixColumnsUndoesMixColumns : Obligations.InvMixColumnsUndoesMixColumns := by
  intro s s' a b b'
  obtain ⟨t, ht, -, -, -, htr⟩ := mixcolumns_computes a b s
  obtain ⟨u, hu, hua⟩ := invmixcolumns_computes.undo invMixColumns_mixColumns htr b' s'
  obtain ⟨v, hv, -, -, -, hvr⟩ := invmixcolumns_computes a b' s'
  obtain ⟨w, hw, hwa⟩ := mixcolumns_computes.undo mixColumns_invMixColumns hvr b s
  exact ⟨t, u, v, w, ht, hu, hua, hv, hw, hwa⟩

/-! ## Which transforms commute -/

/-- A substitution acts on each byte alone, and a row shift only moves bytes (R167). -/
theorem subBytes_shiftRows (v : Block) : subBytes (shiftRows v) = shiftRows (subBytes v) :=
  byteVector_ext fun i hi => by
    rw [byteAt_subBytes _ hi, byteAt_shiftRows_index _ hi, byteAt_shiftRows_index _ hi, byteAt_subBytes _ (by omega)]

theorem invSubBytes_invShiftRows (v : Block) : invSubBytes (invShiftRows v) = invShiftRows (invSubBytes v) :=
  byteVector_ext fun i hi => by
    rw [byteAt_invSubBytes _ hi, byteAt_invShiftRows_index _ hi, byteAt_invShiftRows_index _ hi,
      byteAt_invSubBytes _ (by omega)]

theorem addRoundKey_right_inj (v : Block) {k k' : Block} : addRoundKey v k = addRoundKey v k' ↔ k = k' := by
  constructor
  · intro h
    refine byteVector_ext fun i hi => ?_
    have hbyte := congrArg (byteAt · i) h
    simpa only [byteAt_addRoundKey _ _ hi, BitVec.xor_right_inj] using hbyte
  · rintro rfl
    rfl

/-- AddRoundKey commutes with InvMixColumns for the round keys that InvMixColumns keeps (R167). -/
theorem invMixColumns_addRoundKey_comm_iff (v k : Block) :
    invMixColumns (addRoundKey v k) = addRoundKey (invMixColumns v) k ↔ invMixColumns k = k := by
  rw [(columnTransformsAreLinear.1 v k).2, addRoundKey_right_inj]

/-- InvMixColumns does not keep the State whose last byte alone is 1. -/
theorem invMixColumns_bytes_one_ne : invMixColumns (bytes 1) ≠ bytes 1 := by
  decide

/-- Settles O39: InvMixColumns is additive, so the two orders differ by its effect on the round key; the round key
`bytes 1` tells them apart. -/
theorem whichInverseTransformsCommute : Obligations.WhichInverseTransformsCommute :=
  ⟨fun v => ⟨invSubBytes_invShiftRows v, subBytes_shiftRows v⟩, fun v k => (columnTransformsAreLinear.1 v k).2,
    invMixColumns_addRoundKey_comm_iff,
    bytes 0, bytes 1, mt (invMixColumns_addRoundKey_comm_iff _ _).mp invMixColumns_bytes_one_ne⟩

end Sys2Proof.Machine
end

section
/-! PROOFS. The key schedule as the commands show it: EXPANDKEY's answer, one group and the counters, and each round key
as the function of the one before (44_key_schedule.md R170 to R175). -/

namespace Sys2Proof.Machine

/-! ## EXPANDKEY's answer -/

/-- EXPANDKEY is acceptance with LOAD, which expands the key, and the emit on `sched` (R170). -/
theorem exec_expandkey_answer (a b : PortWord) (s : State) :
    ∃ t, exec (.expandkey a b) s = .next t ∧ t.PHASE = .done ∧ t.err = false ∧ t.cap = ⟨Op.expandkey, a, b⟩ ∧
      t.sched = packSched t.W ∧ t.S = s.S ∧ t.KeyExpanded := by
  obtain ⟨-, hcap, -, -, hS, hk⟩ := loadExpand_spec ⟨Op.expandkey, a, b⟩ s
  obtain ⟨⟨hS', hK', hW', -, -, hPOS', hRCI'⟩, hp, hcap', herr, hsched, -, hhost'⟩ :=
    emitSchedule_spec (State.loadExpand ⟨Op.expandkey, a, b⟩ s)
  exact ⟨_, rfl, hp, herr, hcap'.trans hcap, by rw [hsched, hW'], hS'.trans hS,
    keyExpanded_of_keeps ⟨hK', hW', hPOS', hRCI', hcap', hhost'⟩ hk⟩

/-- Settles O40: the expanded key is on `sched`, and round key 0 of the reference schedule is the key. -/
theorem expandKeyEmitsTheSchedule : Obligations.ExpandKeyEmitsTheSchedule := by
  intro s a b
  obtain ⟨t, ht, hp, herr, hcap, hsched, hS, hk⟩ := exec_expandkey_answer a b s
  have ⟨hK, hW, hPOS, hRCI⟩ := hk
  have hKb : t.K = bytes b := by rw [hK, hcap]
  have hport : schedBytes t.sched = t.W := by rw [hsched, schedBytes_packSched]
  have hresp : t.response = some (.schedule t.W) := by rw [response_schedule hp herr (by rw [hcap]), hport]
  have hzero : roundKey t.W 0 = bytes b := by rw [roundKey_of_keyExpanded hk (by omega), hcap, roundKeyOf]
  exact ⟨decode_encode (.expandkey a b), t, ht, hp, herr, hKb, hresp, hport, hKb ▸ hW, hzero, hPOS, hRCI, hS⟩

/-! ## One group and the counters -/

/-- The start leaves the key in `W[0..15]` (R171). -/
theorem byteAt_start_W (key : Block) (g : KeyRegs) {j : Nat} (hj : j < 16) :
    byteAt (KeyRegs.start key g).W j = byteAt key j :=
  (copyKey_spec key 16 (by omega) g.W j).trans (if_pos hj)

/-- Settles O41: a group's T is the next rolling word and its bytes of W follow from that; the counters by induction on
the groups. -/
theorem scheduleGroupFollowsTheRollingWord : Obligations.ScheduleGroupFollowsTheRollingWord := by
  refine ⟨fun g h16 h172 => ⟨fun k hk => byteAt_nextT g hk, fun k hk => ?written, fun j hj => ?kept, rfl, rfl⟩,
    fun s => ⟨State.withKeyRegs_keyRegs _ _, rfl, rfl, fun j => byteAt_start_W _ _, fun n _ => ?counters⟩⟩
  case written =>
    rw [byteAt_group_W g h16 h172, if_pos (by omega), Nat.add_sub_cancel_left]
    rfl
  case kept => rw [byteAt_group_W g h16 h172, if_neg (by omega)]
  case counters => exact ⟨groups_POS n _, groups_RCI n _ rfl rfl⟩

/-! ## A round key from the one before -/

/-- The commands that expand a key hold its whole reference schedule at their response. -/
theorem exec_expanding_keyExpanded {i : Instr} {a b : PortWord} (hi : i = .expandkey a b ∨ i = .enc a b ∨ i = .dec a b)
    (s : State) : ∃ t, exec i s = .next t ∧ t.KeyExpanded := by
  rcases hi with rfl | hi
  · obtain ⟨t, ht, -, -, -, -, -, hk⟩ := exec_expandkey_answer a b s
    exact ⟨t, ht, hk⟩
  · obtain ⟨t, ht⟩ := exec_answers_next i s
    exact ⟨t, ht, exec_cipher_keyExpanded hi ht⟩

/-- Settles O42: the round keys in W are those of the reference schedule, which R175 builds each from the one before. -/
theorem roundKeyFollowsFromTheOneBefore : Obligations.RoundKeyFollowsFromTheOneBefore := by
  intro s a b i hi
  obtain ⟨t, ht, hk⟩ := exec_expanding_keyExpanded hi s
  refine ⟨t, ht, fun n h1 h10 => ?_⟩
  obtain ⟨m, rfl⟩ : ∃ m, n = m + 1 := ⟨n - 1, by omega⟩
  rw [Nat.add_sub_cancel, roundKey_of_keyExpanded hk h10, roundKey_of_keyExpanded hk (by omega : m ≤ 10)]
  have hfirst : ∀ {r}, r < 4 → byteAt (roundKeyOf (bytes t.cap.b) (m + 1)) r =
      nextRoundKeyByte (roundKeyOf (bytes t.cap.b) m) (m + 1) r := fun hr => byteAt_roundKeyOf_succ _ m (by omega)
  refine ⟨hfirst (by decide), hfirst (by decide), hfirst (by decide), hfirst (by decide), fun j h4 h16 => ?_⟩
  obtain ⟨r, rfl⟩ : ∃ r, j = r + 4 := ⟨j - 4, by omega⟩
  exact byteAt_roundKeyOf_later_word _ m h16

end Sys2Proof.Machine
end

section
/-! PROOFS. ENC and DEC as the functions of R182 and R185, that they undo each other, and a round that the host composes
from single commands (45_block_orchestration.md R181 to R186; 70_reset_and_hazards.md R246). -/

namespace Sys2Proof.Machine

/-! ## The answers of ENC and DEC -/

/-- The response of ENC and DEC is the emit of S: on the way to it RND alone is redrawn (R29, R181, R184). -/
theorem emitCipher_r (s : State) : s.emitCipher.r = pack s.emitCipher.S := rfl

theorem cipher_end_r {c : Command} (ho : c.op = Op.enc ∨ c.op = Op.dec) (s : State) :
    (State.advance^[12] (State.begin c s)).r = pack (State.advance^[12] (State.begin c s)).S := by
  rw [Function.iterate_succ_apply', advance_final (cipher_final ho s).1, emitCipher_r]

theorem encode_of_cipher {i : Instr} {a b : PortWord} (hi : i = .enc a b ∨ i = .dec a b) :
    ((encode i).op = Op.enc ∨ (encode i).op = Op.dec) ∧ (encode i).b = b := by
  rcases hi with rfl | rfl
  · exact ⟨.inl rfl, rfl⟩
  · exact ⟨.inr rfl, rfl⟩

/-- ENC and DEC are the sequencer's runs of twelve transitions (R28, R181, R184). -/
theorem exec_cipher_eq_run {i : Instr} {a b : PortWord} (hi : i = .enc a b ∨ i = .dec a b) (s : State) :
    exec i s = .next (State.advance^[12] (State.begin (encode i) s)) := by
  rcases hi with rfl | rfl
  · exact execEnc_eq_run a b s
  · exact execDec_eq_run a b s

/-- What the host and the registers show after ENC and DEC: DONE with `err = 0`, the block the command is due in S and on
`r`, and the key's schedule in W (R181, R184). -/
theorem exec_cipher_answer {i : Instr} {a b : PortWord} (hi : i = .enc a b ∨ i = .dec a b) (s : State) :
    ∃ t, exec i s = .next t ∧ t.PHASE = .done ∧ t.err = false ∧ t.r = pack t.S ∧
      Response.block t.S = respond (encode i) ∧ t.W = scheduleOf (bytes b) := by
  obtain ⟨t, ht, ⟨hp, hcap, -⟩, hresp⟩ := exec_spec i s
  obtain ⟨ho, hb⟩ := encode_of_cipher hi
  obtain ⟨hK, hW, -⟩ := exec_cipher_keyExpanded hi ht
  have hr : t.r = pack t.S := by
    obtain rfl := Host.Outcome.next.inj ((exec_cipher_eq_run hi s).symm.trans ht)
    exact cipher_end_r ho s
  have hne : t.cap.op ≠ Op.expandkey := ne_expandkey_of_runsCipher (by rwa [State.RunsCipher, hcap])
  rw [response_block hp (exec_err ht) hne, hr, bytes_pack, Option.some.injEq] at hresp
  exact ⟨t, ht, hp, exec_err ht, hr, hresp, by rw [hW, hK, hcap, hb]⟩

/-- Settles O43: the block ENC is due is the function of R182. -/
theorem encComputesTheCipherFunction : Obligations.EncComputesTheCipherFunction := by
  intro s a b
  obtain ⟨t, ht, hp, herr, hr, hS, hW⟩ := exec_cipher_answer (i := .enc a b) (.inl rfl) s
  exact ⟨decode_encode (.enc a b), t, ht, hp, herr, hr, Response.block.inj (hS.trans (respond_of_enc rfl)), hW⟩

/-- Settles O44: the block DEC is due is the function of R185. -/
theorem decComputesTheInverseCipherFunction : Obligations.DecComputesTheInverseCipherFunction := by
  intro s a b
  obtain ⟨t, ht, hp, herr, hr, hS, hW⟩ := exec_cipher_answer (i := .dec a b) (.inr rfl) s
  exact ⟨decode_encode (.dec a b), t, ht, hp, herr, hr, Response.block.inj (hS.trans (respond_of_dec rfl)), hW⟩

/-! ## DEC and ENC undo each other -/

theorem addRoundKey_addRoundKey (v k : Block) : addRoundKey (addRoundKey v k) k = v :=
  byteVector_ext fun i hi => by
    rw [byteAt_addRoundKey _ _ hi, byteAt_addRoundKey _ _ hi, BitVec.xor_assoc, BitVec.xor_self, BitVec.xor_zero]

/-- InvShiftRows and InvSubBytes take back SubBytes and ShiftRows. -/
theorem invSubBytes_invShiftRows_shiftRows_subBytes (v : Block) :
    invSubBytes (invShiftRows (shiftRows (subBytes v))) = v := by
  rw [invShiftRows_shiftRows, invSubBytes_subBytes]

/-- The tie of R186: DEC's round keys are ENC's from the last to the first, so each of DEC's rounds takes back one round
of ENC, up to the substitution and the row shift that the next one takes back. -/
theorem decState_encryptBlock (p k : Block) (n : Nat) (hn : n < 10) :
    decState (encryptBlock p k) k n = shiftRows (subBytes (encState p k (9 - n))) := by
  induction n with
  | zero => rw [decState, encryptBlock, addRoundKey_addRoundKey]
  | succ n ih =>
    have hX : encState p k (9 - n) = addRoundKey (mixColumns (shiftRows (subBytes (encState p k (9 - (n + 1))))))
        (roundKeyOf k (9 - n)) := by
      rw [show 9 - n = 9 - (n + 1) + 1 by omega, encState]
    rw [decState, ih (by omega), invSubBytes_invShiftRows_shiftRows_subBytes, hX, addRoundKey_addRoundKey,
      invMixColumns_mixColumns]

theorem decryptBlock_encryptBlock (p k : Block) : decryptBlock (encryptBlock p k) k = p := by
  rw [decryptBlock, decState_encryptBlock p k 9 (by decide), invSubBytes_invShiftRows_shiftRows_subBytes, Nat.sub_self,
    encState, addRoundKey_addRoundKey]

/-- There are as many blocks as port values. -/
theorem finite_block : Finite Block := .of_injective pack (Function.LeftInverse.injective bytes_pack)

/-- Under one key ENC takes different blocks to different blocks, so it takes every value, and DEC is its inverse on the
other side too. -/
theorem encryptBlock_decryptBlock (c k : Block) : encryptBlock (decryptBlock c k) k = c := by
  have := finite_block
  have hleft : Function.LeftInverse (decryptBlock · k) (encryptBlock · k) := (decryptBlock_encryptBlock · k)
  exact hleft.rightInverse_of_surjective (Finite.surjective_of_injective hleft.injective) c

/-- Settles O45: the commands compute the two functions, and the two functions undo each other. -/
theorem decAndEncUndoEachOther : Obligations.DecAndEncUndoEachOther := by
  refine ⟨fun s s' p k => ?_, fun s s' c k => ?_, decState_encryptBlock⟩
  · obtain ⟨-, t, ht, -, -, htr, htS, -⟩ := encComputesTheCipherFunction s p k
    obtain ⟨-, u, hu, -, -, hur, huS, -⟩ := decComputesTheInverseCipherFunction s' t.r k
    exact ⟨t, u, ht, hu, by rw [hur, huS, htr, bytes_pack, htS, decryptBlock_encryptBlock, pack_bytes]⟩
  · obtain ⟨-, t, ht, -, -, htr, htS, -⟩ := decComputesTheInverseCipherFunction s c k
    obtain ⟨-, u, hu, -, -, hur, huS, -⟩ := encComputesTheCipherFunction s' t.r k
    exact ⟨t, u, ht, hu, by rw [hur, huS, htr, bytes_pack, htS, encryptBlock_decryptBlock, pack_bytes]⟩

/-! ## A round composed by the host -/

/-- ADDROUNDKEY with a fixed round key on `b` (R149). -/
theorem addroundkey_computes (b : PortWord) : Computes (fun a _ => .addroundkey a b) (addRoundKey · (bytes b)) :=
  fun _ _ s => exec_transform_answer (.inr rfl) s

/-- A round key cut from the schedule that EXPANDKEY answers (R52, R170). -/
theorem exec_expandkey_roundKey (a b : PortWord) (s : State) :
    ∃ t, exec (.expandkey a b) s = .next t ∧
      ∀ n, n ≤ 10 → roundKey (schedBytes t.sched) n = roundKeyOf (bytes b) n := by
  obtain ⟨t, ht, -, -, hcap, hsched, -, hk⟩ := exec_expandkey_answer a b s
  exact ⟨t, ht, fun n hn => by rw [hsched, schedBytes_packSched, roundKey_of_keyExpanded hk hn, hcap]⟩

/-- Settles O47: both sides are `X1` of R182. -/
theorem hostComposedRoundEqualsTheMachines : Obligations.HostComposedRoundEqualsTheMachines := by
  intro s p k
  obtain ⟨e, he, hkey⟩ := exec_expandkey_roundKey 0 k s
  obtain ⟨t0, ht0, -, -, -, hr0⟩ := addroundkey_computes (pack (roundKey (schedBytes e.sched) 0)) p 0 s
  obtain ⟨t1, ht1, -, -, -, hr1⟩ := subbytes_computes t0.r 0 s
  obtain ⟨t2, ht2, -, -, -, hr2⟩ := shiftrows_computes t1.r 0 s
  obtain ⟨t3, ht3, -, -, -, hr3⟩ := mixcolumns_computes t2.r 0 s
  obtain ⟨t4, ht4, -, -, -, hr4⟩ := addroundkey_computes (pack (roundKey (schedBytes e.sched) 1)) t3.r 0 s
  obtain ⟨hdone, hcap, -⟩ := enc_run (c := ⟨Op.enc, p, k⟩) rfl s (n := 1) (by decide)
  refine ⟨e, t0, t1, t2, t3, t4, he, ht0, ht1, ht2, ht3, ht4, ?_⟩
  calc bytes t4.r = encState (bytes p) (bytes k) 1 := by
        rw [hr4, hr3, hr2, hr1, hr0]
        simp only [bytes_pack, hkey 0 (by decide), hkey 1 (by decide), encState]
    _ = (State.advance^[2] (State.begin ⟨Op.enc, p, k⟩ s)).S := by rw [hdone.block, hcap]

/-! ## The known answer -/

/-- Settles O46: ENC computes the function of R182, which is evaluated on the document's plaintext and key. -/
theorem knownAnswerEncryption : Obligations.KnownAnswerEncryption := by
  intro s
  obtain ⟨-, t, ht, -, -, hr, hS, -⟩ := encComputesTheCipherFunction s 0x00112233445566778899aabbccddeeff
    0x000102030405060708090a0b0c0d0e0f
  refine ⟨t, ht, ?_⟩
  rw [hr, hS]
  decide +kernel

end Sys2Proof.Machine
end

section
/-! PROOFS. The error response: what a core in IDLE does with a reserved opcode, and the command after it
(60_exceptions.md R203, R208). -/

namespace Sys2Proof.Machine

/-- A reserved opcode in IDLE is answered with the error response, and the host's input is used up (R203). -/
theorem step_reserved_of_idle {s : State} {c : Command} {rest : List HostInput} (hp : s.PHASE = .idle)
    (hh : s.host = ⟨false, true, c⟩ :: rest) (hr : c.op ∈ reservedOps) :
    step s = .next (State.raiseIllegalOp c (s.withHost rest)) := by
  have hport := ports_of_host hh
  rw [step_of_idle (by rw [hport]) hp, hport, takePorts_of_host hh, serve_reserved hr]

/-- Settles O8: the error response keeps every register, and it leaves a core at rest, which answers the next command as
O20 says. -/
theorem reservedOpcodeGetsIllegalOp : Obligations.ReservedOpcodeGetsIllegalOp := by
  intro s c rest hp hh hr
  obtain ⟨⟨hS, hK, hW, hT, hRND, hPOS, hRCI⟩, hdone, -, herr, hhost⟩ := raiseIllegalOp_spec c (s.withHost rest)
  exact ⟨_, step_reserved_of_idle hp hh hr, hdone, herr, response_illegalOp hdone herr, hS, hK, hW, hT, hRND, hPOS, hRCI,
    hhost, fun c' rest' => everyCommandIsAnsweredAsSpecified _ c' rest' (.inr hdone) rfl⟩

end Sys2Proof.Machine
end

section
/-! PROOFS. Every step ends at rest, and a command or an operation in progress at its response (70_reset_and_hazards.md
R251; 20_memory.md R64). -/

namespace Sys2Proof.Machine

/-- Whatever command a core at rest is presented, its step ends at the response (R33, R251). -/
theorem step_presented {s : State} (hr : s.AtRest) (hrst : s.ports.rst = false) (hv : s.ports.cmdValid = true) :
    ∃ t, step s = .next t ∧ t.PHASE = .done := by
  have hports : s.ports = ⟨false, true, s.ports.cmd⟩ := by rw [← hrst, ← hv]
  obtain ⟨s0, -, hstep⟩ := step_of_atRest hrst hr
  obtain ⟨t, ht, ⟨hp, -⟩, -⟩ := serve_command s.ports.cmd s0
  exact ⟨t, by rw [hstep, hports, ht], hp⟩

/-- Settles O15, by what a step does under reset, in the middle of an operation, and at rest with and without a command. -/
theorem everyStepReachesARestingState : Obligations.EveryStepReachesARestingState := by
  intro s
  cases hrst : s.ports.rst with
  | true => exact ⟨_, step_of_rst hrst, .inl (toIdle_PHASE _), nofun⟩
  | false =>
    by_cases hr : s.AtRest
    · cases hv : s.ports.cmdValid with
      | true =>
        obtain ⟨t, ht, hp⟩ := step_presented hr hrst hv
        exact ⟨t, ht, .inr hp, fun _ _ => hp⟩
      | false =>
        obtain ⟨t, ht, hp⟩ := step_quiet hr hrst hv
        exact ⟨t, ht, .inl hp, fun _ h => h.elim (absurd hr) nofun⟩
    · obtain ⟨hp, -⟩ := finish_spec (s := s.takePorts) hr
      exact ⟨_, step_of_busy hrst hr, .inr hp, fun _ _ => hp⟩

end Sys2Proof.Machine
end
